-- ==== Sys2Proof/Word.lean ====
section
/-! DEFINITION. The word types of TTA-QD: a command and a result are each one 32-bit value (R62, R80). -/

namespace Sys2Proof

/-- A command word or a result, delivered whole (R62). -/
abbrev Word := BitVec 32

/-- The opcode byte, the IDX and S8 operands, and the 8-bit elements. -/
abbrev Byte := BitVec 8

/-- The U16 operand and the 16-bit elements (R12, R82). -/
abbrev Half := BitVec 16

end Sys2Proof
end

