-- ==== Sys2Proof/Syntax.lean ====
section
/-! DEFINITION. The commands of TTA-QD as terms: one constructor per row of spec/opcode_table.json (R86), the two
agents (R13), the formats (R81), the registers READ_REG names (R61) and the reasons a command is refused (R211). -/

namespace Sys2Proof

/-- The two issuers of commands (R13), told apart by the port they issue on (R221). -/
inductive Agent where
  | tick
  | consumer
deriving DecidableEq, Repr

/-- The closed list of refusal reasons of R211. -/
inductive RefusalReason where
  /-- 1: `op[31:24]` is no opcode of R86. -/
  | illegalOpcode
  /-- 2: a reserved bit of the format is 1 (R81). -/
  | reservedBits
  /-- 3: issued by the agent the opcode does not belong to (R212). -/
  | wrongAgent
  /-- 4: SET_TRIM with `op[7:0] = 0x80` (R121). -/
  | reservedOperand
  /-- 5: START_INTERVAL with `n = 0` (R150). -/
  | zeroInterval
  /-- 6: INTERVAL_ELAPSED or CONSUME_INTERVAL with no interval armed (R157, R162). -/
  | noInterval
  /-- 7: READ_REG with `i > 0x0E` (R200). -/
  | reservedIndex
deriving DecidableEq, Repr

/-- The operand formats of R81. -/
inductive Format where
  | N
  | U16
  | S8
  | QD
  | IDX
deriving DecidableEq, Repr

/-- The rows of the opcode map (R86), without operands. -/
inductive Opcode where
  | recordTick
  | nextReload
  | pendingTicks
  | retire
  | retireAll
  | setTrim
  | clockAdvance
  | clockUpdate
  | startInterval
  | intervalElapsed
  | consumeInterval
  | qdUpdate
  | readReg
deriving DecidableEq, Repr

/-- The commands of R86 with their operands as the encoding admits them (R82 to R85). A reserved operand value is a
term too: it decodes, and the command's rule refuses it (R87 check 4; entry 13). -/
inductive Instr where
  /-- RECORD_TICK, R101. -/
  | recordTick
  /-- NEXT_RELOAD, R123. -/
  | nextReload
  /-- PENDING_TICKS, R102. -/
  | pendingTicks
  /-- RETIRE n, R103. -/
  | retire (n : Half)
  /-- RETIRE_ALL, R104. -/
  | retireAll
  /-- SET_TRIM k, R121; `k` is the operand byte, read as two's complement (R83). -/
  | setTrim (k : Byte)
  /-- CLOCK_ADVANCE n, R141. -/
  | clockAdvance (n : Half)
  /-- CLOCK_UPDATE, R145. -/
  | clockUpdate
  /-- START_INTERVAL n, R150. -/
  | startInterval (n : Half)
  /-- INTERVAL_ELAPSED, R157. -/
  | intervalElapsed
  /-- CONSUME_INTERVAL, R162. -/
  | consumeInterval
  /-- QD_UPDATE b, q, R171; `b = true` is the pressed level (R84). -/
  | qdUpdate (b : Bool) (q : BitVec 2)
  /-- READ_REG i, R200. -/
  | readReg (i : Byte)
deriving DecidableEq, Repr

/-- A command as it reaches the block: the port it is issued on and its word (R13, R80). -/
structure Command where
  agent : Agent
  word  : Word
deriving DecidableEq, Repr

/-- The registers of the index map of R61. -/
inductive RegName where
  | eventCount
  | retiredCount
  | baseInterval
  | trimCfg
  | trimCycle
  | milliseconds
  | minutes
  | intervalLength
  | intervalDeadline
  | buttonShift
  | buttonState
  | holdCount
  | holdDiv
  | quadNybble
  | rotationCount
deriving DecidableEq, Repr

end Sys2Proof
end

