-- ==== Sys2Proof/Decode.lean ====
section
/-! DEFINITION. Command words and commands: the decoder (R80 to R88), total on every 32-bit word and rejecting by
the reason of R211, and the encoder written from the same tables. -/

namespace Sys2Proof

/-- The reason code of R211. -/
def RefusalReason.code : RefusalReason → Nat
  | .illegalOpcode => 1
  | .reservedBits => 2
  | .wrongAgent => 3
  | .reservedOperand => 4
  | .zeroInterval => 5
  | .noInterval => 6
  | .reservedIndex => 7

/-! ## The opcode map, R86 -/

/-- `op[31:24]` of the row (R86). -/
def Opcode.toByte : Opcode → Byte
  | .recordTick => 0x01#8
  | .nextReload => 0x02#8
  | .pendingTicks => 0x10#8
  | .retire => 0x11#8
  | .retireAll => 0x12#8
  | .setTrim => 0x20#8
  | .clockAdvance => 0x30#8
  | .clockUpdate => 0x31#8
  | .startInterval => 0x32#8
  | .intervalElapsed => 0x33#8
  | .consumeInterval => 0x34#8
  | .qdUpdate => 0x40#8
  | .readReg => 0x50#8

/-- The format column of R86. -/
def Opcode.format : Opcode → Format
  | .recordTick => .N
  | .nextReload => .N
  | .pendingTicks => .N
  | .retire => .U16
  | .retireAll => .N
  | .setTrim => .S8
  | .clockAdvance => .U16
  | .clockUpdate => .N
  | .startInterval => .U16
  | .intervalElapsed => .N
  | .consumeInterval => .N
  | .qdUpdate => .QD
  | .readReg => .IDX

/-- The agent column of R86: who may issue the command (R13, R212). -/
def Opcode.owner : Opcode → Agent
  | .recordTick => .tick
  | .nextReload => .tick
  | .pendingTicks => .consumer
  | .retire => .consumer
  | .retireAll => .consumer
  | .setTrim => .consumer
  | .clockAdvance => .consumer
  | .clockUpdate => .consumer
  | .startInterval => .consumer
  | .intervalElapsed => .consumer
  | .consumeInterval => .consumer
  | .qdUpdate => .consumer
  | .readReg => .consumer

/-- The rows of R86 in the table's order. -/
def Opcode.all : List Opcode :=
  [.recordTick, .nextReload, .pendingTicks, .retire, .retireAll, .setTrim, .clockAdvance, .clockUpdate,
   .startInterval, .intervalElapsed, .consumeInterval, .qdUpdate, .readReg]

/-- The row whose opcode is `b`, if R86 has one (R87 check 1; the other 243 values are illegal, R88). -/
def Opcode.ofByte (b : Byte) : Option Opcode := Opcode.all.find? fun o => o.toByte == b

/-- The bits of the word that the format does not name, all reserved (R81); `op[23:16]` is reserved in each (R80). -/
def Format.reserved : Format → Word
  | .N => 0x00FFFFFF#32
  | .U16 => 0x00FF0000#32
  | .S8 => 0x00FFFF00#32
  | .QD => 0x00FFFFF8#32
  | .IDX => 0x00FFFF00#32

/-! ## Fields of the word, R80 to R85 -/

/-- `op[31:24]`. -/
def opcodeField (w : Word) : Byte := w.extractLsb' 24 8

/-- `op[15:0]`, the U16 operand (R82). -/
def u16Field (w : Word) : Half := w.extractLsb' 0 16

/-- `op[7:0]`, the S8 operand (R83) and the IDX operand (R85). -/
def byteField (w : Word) : Byte := w.extractLsb' 0 8

/-- `op[2]`, the raw button bit of the QD format (R84). -/
def buttonField (w : Word) : Bool := w.getLsbD 2

/-- `op[1:0]`, the raw quadrature sample of the QD format (R84). -/
def sampleField (w : Word) : BitVec 2 := w.extractLsb' 0 2

/-- The command of a row with its operands taken from the word. -/
def Opcode.withOperands (o : Opcode) (w : Word) : Instr :=
  match o with
  | .recordTick => .recordTick
  | .nextReload => .nextReload
  | .pendingTicks => .pendingTicks
  | .retire => .retire (u16Field w)
  | .retireAll => .retireAll
  | .setTrim => .setTrim (byteField w)
  | .clockAdvance => .clockAdvance (u16Field w)
  | .clockUpdate => .clockUpdate
  | .startInterval => .startInterval (u16Field w)
  | .intervalElapsed => .intervalElapsed
  | .consumeInterval => .consumeInterval
  | .qdUpdate => .qdUpdate (buttonField w) (sampleField w)
  | .readReg => .readReg (byteField w)

/-- `decode(op)` of R87: checks 1 and 2, in that order. Checks 3 and 4 need the issuing agent and the state, and are
each command's own (Machine/Ops.lean). -/
def decode (w : Word) : Except RefusalReason Instr :=
  match Opcode.ofByte (opcodeField w) with
  | none => .error .illegalOpcode
  | some o => if w &&& o.format.reserved = 0#32 then .ok (o.withOperands w) else .error .reservedBits

/-! ## The encoder -/

/-- The row of R86 a command belongs to. -/
def Instr.opcode : Instr → Opcode
  | .recordTick => .recordTick
  | .nextReload => .nextReload
  | .pendingTicks => .pendingTicks
  | .retire _ => .retire
  | .retireAll => .retireAll
  | .setTrim _ => .setTrim
  | .clockAdvance _ => .clockAdvance
  | .clockUpdate => .clockUpdate
  | .startInterval _ => .startInterval
  | .intervalElapsed => .intervalElapsed
  | .consumeInterval => .consumeInterval
  | .qdUpdate _ _ => .qdUpdate
  | .readReg _ => .readReg

/-- The agent that may issue the command (R86). -/
def Instr.owner (i : Instr) : Agent := i.opcode.owner

/-- `op[15:0]` of the command, laid out by its format (R81). -/
def Instr.operandField : Instr → Half
  | .recordTick => 0#16
  | .nextReload => 0#16
  | .pendingTicks => 0#16
  | .retire n => n
  | .retireAll => 0#16
  | .setTrim k => 0#8 ++ k
  | .clockAdvance n => n
  | .clockUpdate => 0#16
  | .startInterval n => n
  | .intervalElapsed => 0#16
  | .consumeInterval => 0#16
  | .qdUpdate b q => 0#13 ++ BitVec.ofBool b ++ q
  | .readReg i => 0#8 ++ i

/-- The word of a command: opcode, eight zero bits, operand field (R80). -/
def encode (i : Instr) : Word := i.opcode.toByte ++ 0#8 ++ i.operandField

/-! ## The host's view of the opcode table -/

/-- The command word of a table row's bits: `w` below bit `nbits`, zero above. Every command is one 32-bit word
delivered whole, so there is no byte order (R62, R80). -/
def tableWord (nbits w : Nat) : Word := BitVec.ofNat 32 (w % 2 ^ nbits)

/-- What the decoder reads from a table row's bits. -/
def decodeTableWord (nbits w : Nat) : Option Instr :=
  match decode (tableWord nbits w) with
  | .ok i => some i
  | .error _ => none

/-- The agent a listing without a prefix means: the one R86 names (R89). A word that decodes to no command belongs to
neither; DESIGN CHOICE (entry 11): the consumer. -/
def defaultAgent (w : Word) : Agent :=
  match decode w with
  | .ok i => i.owner
  | .error _ => .consumer

/-- A table row's word as a command of the agent R86 names for it. -/
def tableCommand (nbits w : Nat) : Command := ⟨defaultAgent (tableWord nbits w), tableWord nbits w⟩

/-- The command that issues `i` from the agent R86 names for it. -/
def Instr.issued (i : Instr) : Command := ⟨i.owner, encode i⟩

end Sys2Proof
end

