-- ==== Sys2Proof/Config.lean ====
section
/-! DEFINITION. The configuration of one instance, R6 to R11. It is not state: it is taken at reset and no command
writes it (R241). It stands in State as a constant so that a statement about every state is a statement about every
configuration (entry 2). -/

namespace Sys2Proof

/-- `ROT_MODE`: what `rotationCount` does at its ends (R10). -/
inductive RotMode where
  | wrap
  | saturate
deriving DecidableEq, Repr

/-- The parameters of R6 to R11. `W` and `BASE` are OPEN and have no default; the others have the spec's default.
The legal ranges are `Config.legal` (Machine/Instance.lean). -/
structure Config where
  /-- `W`, the width of the two tick counters: 8 or 16 (R6). -/
  W            : Nat
  /-- `BASE`, the hardware timer's period in native units: 1 to 65534 (R7). -/
  BASE         : Half
  /-- `R`, the interval rollover bound: 1 to 65535 (R8). -/
  R            : Half := 60000#16
  /-- `UI_DIV`, the updates per hold-count increment: 1 to 255 (R9). -/
  UI_DIV       : Byte := 20#8
  /-- `ROT_MODE` (R10). -/
  ROT_MODE     : RotMode := .wrap
  /-- `INIT_MS`, the initial `milliseconds`: 0 to 59999 (R11). -/
  INIT_MS      : Half := 0#16
  /-- `INIT_INTERVAL`, the initial `intervalLength`; 0 arms none (R11). -/
  INIT_INTERVAL : Half := 0#16
deriving DecidableEq, Repr

/-- The configuration of `State.reset`. DESIGN CHOICE (entry 3, unsafe): R6 and R7 leave `W` and `BASE` OPEN; the
values 8 and 250 are those of the conventions of spec/95_test_vectors.md. The other parameters are at the spec's
defaults. -/
def Config.standard : Config := { W := 8, BASE := 250#16 }

end Sys2Proof
end

