-- ==== Sys2Proof/Machine/State.lean ====
section
/-! DEFINITION. The state of TTA-QD: the 16 elements of R20 grouped by sub-block (R2, R36), the record of the run that
R15 observes, and the model's own bookkeeping of who issues what next. All of it is plain data. -/

namespace Sys2Proof.Machine

/-- The debounced button state, R38: 1 is PRESSED, 0 is RELEASED. -/
inductive ButtonState where
  | released
  | pressed
deriving DecidableEq, Repr

/-- TickAccumulator (R22, R23). The counters are `W` bits wide; they are held in 16 bits, and `State.Inv` says that
they stay below `2^W` (entry 9). -/
structure Accumulator where
  eventCount   : Half
  retiredCount : Half
deriving DecidableEq, Repr

/-- TrimmedTickAccumulator (R26 to R29). -/
structure Trim where
  trimMag    : BitVec 7
  trimNeg    : Bool
  trimIdx    : BitVec 7
  trimActive : Bool
deriving DecidableEq, Repr

/-- The wall clock of SoftwareClock (R32, R33). -/
structure Clock where
  milliseconds : Half
  minutes      : Half
deriving DecidableEq, Repr

/-- The single-interval alarm of SoftwareClock (R34, R35); `intervalLength = 0` means no interval is armed. -/
structure Alarm where
  intervalLength       : Half
  nextIntervalDeadline : Half
deriving DecidableEq, Repr

/-- The button sub-machine of QuadratureDebouncer (R37 to R40). -/
structure Button where
  btnShift  : Byte
  btnState  : ButtonState
  holdCount : Byte
  holdDiv   : Byte
deriving DecidableEq, Repr

/-- The quadrature sub-machine of QuadratureDebouncer (R41, R42). `rotationCount` is the two's-complement pattern of
the signed element. -/
structure Quad where
  quadNyb       : BitVec 4
  rotationCount : Byte
deriving DecidableEq, Repr

/-- A result returned to the agent that issued the command (R16, R17). -/
structure Reply where
  agent : Agent
  value : Word
deriving DecidableEq, Repr

/-- Everything one run of the block is made of. -/
structure State where
  /-- The instance's configuration, constant (R241; entry 2). -/
  cfg     : Config
  acc     : Accumulator
  trim    : Trim
  clock   : Clock
  alarm   : Alarm
  button  : Button
  quad    : Quad
  /-- The commands still to be applied, the next one first: the host's total order of both agents' commands
  (R21, R67; entry 4). -/
  inbox   : List Command
  /-- The port on which the command being applied was issued (R221; entry 6). -/
  issuer  : Agent
  /-- The results returned so far, oldest first (R15; entry 7). -/
  results : List Reply
  /-- The sticky refusal mark of R18: `none` while it is clear, else the reason of the latest refused command
  (entry 8). -/
  refusal : Option RefusalReason
deriving DecidableEq, Repr

/-- The block has no fault outcome (R18, R210): the type is empty, so nothing raises one. Safe: no step of the machine
can end here. -/
inductive Fault where
deriving DecidableEq, Repr

/-- Why a step of the MODEL gives no next state. The spec's own refused outcome (R18) is none of these: it is a next
state with the refusal mark set (entry 1). -/
inductive Refusal where
  /-- Raised by `exec`'s arm of a command that has no meaning yet; no arm raises it now. Safe: nothing can be proved of
  such a step. -/
  | notModelled (mnemonic : String)
  /-- Raised by `step` when the configuration is outside the ranges of R6 to R11: there is no instance to issue a
  command to (R241, I26; entry 10). Safe: the spec gives such an instance no behaviour. -/
  | illegalConfig
deriving DecidableEq, Repr

/-- The outcome of one command or one step. -/
abbrev Result := Host.Outcome State Fault Refusal

/-- The state after a reset with configuration `c` (R240): every element at the value R20 gives it, nothing waiting,
no result returned, the refusal mark clear. Reset is the host's act, not a command (R240; entry 14). The value of
`issuer` is DESIGN CHOICE (entry 6): no rule reads it before a command sets it. -/
def State.resetWith (c : Config) : State where
  cfg := c
  acc := { eventCount := 0#16, retiredCount := 0#16 }
  trim := { trimMag := 0#7, trimNeg := false, trimIdx := 0#7, trimActive := false }
  clock := { milliseconds := c.INIT_MS, minutes := 0#16 }
  alarm := {
    intervalLength := c.INIT_INTERVAL
    nextIntervalDeadline :=
      if c.INIT_INTERVAL = 0#16 then 0#16
      else BitVec.ofNat 16 ((c.INIT_MS.toNat + c.INIT_INTERVAL.toNat) % c.R.toNat) }
  button := { btnShift := 0x00#8, btnState := .released, holdCount := 0#8, holdDiv := 0#8 }
  quad := { quadNyb := 0x0#4, rotationCount := 0#8 }
  inbox := []
  issuer := .consumer
  results := []
  refusal := none

/-- The machine right after reset, in the configuration of entry 3. -/
def State.reset : State := State.resetWith Config.standard

end Sys2Proof.Machine
end

