-- ==== Sys2Proof/Machine/Flags.lean ====
section
/-! DEFINITION. The flags of the block (R19, R44, R45): boolean results and the event bits of QD_UPDATE. None is
stored. -/

namespace Sys2Proof.Machine

/-- A boolean result, 1 or 0 (R17, R45). -/
def boolResult (b : Bool) : Word := if b then 1#32 else 0#32

/-! ## The event mask of R44; bits 31:7 are always 0 -/

/-- Bit 0. -/
def evClockwise : Word := 0x01#32

/-- Bit 1. -/
def evCounterclockwise : Word := 0x02#32

/-- Bit 2. -/
def evChangeUnvalidated : Word := 0x04#32

/-- Bit 3. -/
def evPress : Word := 0x08#32

/-- Bit 4. -/
def evRelease : Word := 0x10#32

/-- Bit 5. -/
def evHoldTick : Word := 0x20#32

/-- Bit 6. -/
def evHoldSaturated : Word := 0x40#32

/-- The decode column of R181. -/
inductive Rotation where
  | noChange
  | clockwise
  | counterclockwise
  | illegalDouble
deriving DecidableEq, Repr

/-- The event bit of a decode (R181). -/
def Rotation.event : Rotation → Word
  | .noChange => 0#32
  | .clockwise => evClockwise
  | .counterclockwise => evCounterclockwise
  | .illegalDouble => 0#32

/-- The event bit of a change of the debounced state (R173). -/
def transitionEvent : Option ButtonState → Word
  | none => 0#32
  | some .pressed => evPress
  | some .released => evRelease

/-- CHANGE_UNVALIDATED: the shifted history `sr` is not saturated (R174). -/
def unvalidatedEvent (sr : Byte) : Word :=
  if sr = 0x00#8 ∨ sr = 0xFF#8 then 0#32 else evChangeUnvalidated

end Sys2Proof.Machine
end

