-- ==== Sys2Proof/Machine/Instance.lean ====
section
/-! DEFINITION. Which configurations give an instance: the legal ranges of R6 to R11 (R241, I26). -/

namespace Sys2Proof

/-- Every parameter is in its legal range. A configuration for which this is false gives no instance (R241).
`INIT_INTERVAL` (0 to 65535) and `ROT_MODE` have no illegal value. -/
def Config.legal (c : Config) : Bool :=
  (c.W == 8 || c.W == 16) &&
  (1 ≤ c.BASE.toNat && c.BASE.toNat ≤ 65534) &&
  (1 ≤ c.R.toNat) &&
  (1 ≤ c.UI_DIV.toNat) &&
  (c.INIT_MS.toNat ≤ 59999)

end Sys2Proof
end

