-- ==== Sys2Proof/Machine/Operands.lean ====
section
/-! DEFINITION. What an operand means (R82 to R85), which operand values a command refuses (R87 check 4), and the
register views of READ_REG (R30, R61). -/

namespace Sys2Proof.Machine

/-- U16: an unsigned value 0 to 65535, never sign-extended or scaled (R82). -/
def u16Value (n : Half) : Nat := n.toNat

/-- S8: 8-bit two's complement, -128 to 127, never scaled (R83). -/
def s8Value (k : Byte) : Int := k.toInt

/-- The operand of SET_TRIM: `op[7:0] = 0x80` is reserved (R83, R121). -/
def trimOperand (k : Byte) : Except RefusalReason Int :=
  if k = 0x80#8 then .error .reservedOperand else .ok (s8Value k)

/-- The operand of START_INTERVAL: a zero interval is refused (R150). -/
def intervalOperand (n : Half) : Except RefusalReason Half :=
  if n = 0#16 then .error .zeroInterval else .ok n

/-- The rows of the index map of R61, index 0x00 first. -/
def RegName.all : List RegName :=
  [.eventCount, .retiredCount, .baseInterval, .trimCfg, .trimCycle, .milliseconds, .minutes, .intervalLength,
   .intervalDeadline, .buttonShift, .buttonState, .holdCount, .holdDiv, .quadNybble, .rotationCount]

/-- The operand of READ_REG, looked up in R61: an index above 0x0E is refused (R200). -/
def regOperand (i : Byte) : Except RefusalReason RegName :=
  match RegName.all[i.toNat]? with
  | some r => .ok r
  | none => .error .reservedIndex

/-- The 1-bit value of the debounced state: 1 is PRESSED (R38). -/
def ButtonState.toBit : ButtonState → BitVec 1
  | .released => 0#1
  | .pressed => 1#1

/-- `TRIM_CFG = {trimNeg, trimMag}` (R30). -/
def Trim.cfgView (t : Trim) : Byte := BitVec.ofBool t.trimNeg ++ t.trimMag

/-- `TRIM_CYCLE = {trimActive, trimIdx}` (R30). -/
def Trim.cycleView (t : Trim) : Byte := BitVec.ofBool t.trimActive ++ t.trimIdx

/-- The value READ_REG returns for a register, zero-extended to 32 bits (R17, R61). -/
def view (r : RegName) (s : State) : Word :=
  match r with
  | .eventCount => s.acc.eventCount.setWidth 32
  | .retiredCount => s.acc.retiredCount.setWidth 32
  | .baseInterval => s.cfg.BASE.setWidth 32
  | .trimCfg => s.trim.cfgView.setWidth 32
  | .trimCycle => s.trim.cycleView.setWidth 32
  | .milliseconds => s.clock.milliseconds.setWidth 32
  | .minutes => s.clock.minutes.setWidth 32
  | .intervalLength => s.alarm.intervalLength.setWidth 32
  | .intervalDeadline => s.alarm.nextIntervalDeadline.setWidth 32
  | .buttonShift => s.button.btnShift.setWidth 32
  | .buttonState => s.button.btnState.toBit.setWidth 32
  | .holdCount => s.button.holdCount.setWidth 32
  | .holdDiv => s.button.holdDiv.setWidth 32
  | .quadNybble => s.quad.quadNyb.setWidth 32
  | .rotationCount => s.quad.rotationCount.setWidth 32

end Sys2Proof.Machine
end

