-- ==== Sys2Proof/Machine/Ops.lean ====
section
/-! DEFINITION. The operations the commands share: named updates of the state, the two outcomes of a command (R18), the
checks before a rule is applied (R87), taking the next command, and the arithmetic of the counters, the clock and the
alarm that more than one command uses. -/

namespace Sys2Proof.Machine

/-! ## Named updates of the state -/

/-- `s` with the accumulator `a`. -/
def State.withAcc (s : State) (a : Accumulator) : State := { s with acc := a }

/-- `s` with the trim `t`. -/
def State.withTrim (s : State) (t : Trim) : State := { s with trim := t }

/-- `s` with the clock `c`. -/
def State.withClock (s : State) (c : Clock) : State := { s with clock := c }

/-- `s` with the alarm `a`. -/
def State.withAlarm (s : State) (a : Alarm) : State := { s with alarm := a }

/-- `s` with the button sub-machine `b`. -/
def State.withButton (s : State) (b : Button) : State := { s with button := b }

/-- `s` with the quadrature sub-machine `q`. -/
def State.withQuad (s : State) (q : Quad) : State := { s with quad := q }

/-- `result <- v`: `v` is returned to the issuing agent (R16). -/
def State.reply (s : State) (v : Word) : State := { s with results := s.results ++ [⟨s.issuer, v⟩] }

/-- The refused outcome of R18: no element changes, no result is returned, the sticky mark is set (R211 names the
reason). -/
def State.refuse (s : State) (r : RefusalReason) : State := { s with refusal := some r }

/-- `s` with the front command `c` taken from the inbox and its port noted; `rest` stays waiting. -/
def State.accept (s : State) (c : Command) (rest : List Command) : State :=
  { s with issuer := c.agent, inbox := rest }

/-! ## The outcomes of a command, R18 -/

/-- The command is done and returns `v`. -/
def done (v : Word) (s : State) : Result := .next (s.reply v)

/-- Taking a refusal: the block's only abnormal outcome (R210, R211). It is a next state: nothing traps, and the next
command is decoded normally (R220; entry 1). -/
def takeRefusal (r : RefusalReason) (s : State) : Result := .next (s.refuse r)

/-- Check 3 of R87: the command is refused if another agent than `owner` issued it (R212). -/
def byAgent (owner : Agent) (s : State) (k : Result) : Result :=
  if s.issuer = owner then k else takeRefusal .wrongAgent s

/-- Check 4 of R87: the command is refused if its operand is not legal. -/
def withOperand {α : Type} (x : Except RefusalReason α) (s : State) (k : α → Result) : Result :=
  match x with
  | .ok a => k a
  | .error r => takeRefusal r s

/-! ## Taking the next command -/

/-- What a step finds to do. -/
inductive Fetched where
  /-- The configuration is not legal: no instance exists (R241). -/
  | noInstance
  /-- No command is waiting. -/
  | idle
  /-- The word of the front command, and the state that applies it. -/
  | command (w : Word) (s : State)
deriving DecidableEq, Repr

/-- Take the front command of the inbox (R67, R72: there is no fetch from memory). -/
def fetch (s : State) : Fetched :=
  if s.cfg.legal then
    match s.inbox with
    | [] => .idle
    | c :: rest => .command c.word (s.accept c rest)
  else .noInstance

/-- The state whose next step applies `c`: `c` in front of everything waiting. -/
def State.deliver (s : State) (c : Command) : State := { s with inbox := c :: s.inbox }

/-! ## Arithmetic, R17 -/

/-- `a mod m`: the mathematical residue in `[0, m)`, also for negative `a` (R17). -/
def residue (a : Int) (m : Nat) : Nat := (a % (m : Int)).toNat

/-! ## The tick counters, R22 to R24 -/

/-- `pending = (eventCount - retiredCount) mod 2^W` (R24). -/
def Accumulator.pending (W : Nat) (a : Accumulator) : Nat :=
  residue ((a.eventCount.toNat : Int) - (a.retiredCount.toNat : Int)) (2 ^ W)

/-- `(c + n) mod 2^W`, the sum a counter is written with (R101, R103). -/
def counterSum (W : Nat) (c : Half) (n : Nat) : Half := BitVec.ofNat 16 ((c.toNat + n) % 2 ^ W)

/-- `retiredCount <- (retiredCount + n) mod 2^W` (R103, R145). -/
def Accumulator.retireBy (W n : Nat) (a : Accumulator) : Accumulator :=
  { a with retiredCount := counterSum W a.retiredCount n }

/-! ## The wall clock, R141 and R145 -/

/-- The clock advanced by `n` milliseconds, exact however many minutes it crosses (R141). -/
def Clock.advance (n : Nat) (c : Clock) : Clock where
  milliseconds := BitVec.ofNat 16 ((c.milliseconds.toNat + n) % 60000)
  minutes := BitVec.ofNat 16 ((c.minutes.toNat + (c.milliseconds.toNat + n) / 60000) % 2 ^ 16)

/-! ## The alarm, R155 -/

/-- `(milliseconds - nextIntervalDeadline) mod R`, the time since the deadline. -/
def Alarm.sinceDeadline (R : Nat) (ms : Half) (a : Alarm) : Nat :=
  residue ((ms.toNat : Int) - (a.nextIntervalDeadline.toNat : Int)) R

/-- The elapsed predicate of R155. -/
def Alarm.elapsed (R : Nat) (ms : Half) (a : Alarm) : Bool :=
  a.sinceDeadline R ms < a.intervalLength.toNat

/-- The refusal of INTERVAL_ELAPSED and CONSUME_INTERVAL while no interval is armed (R34, R157, R162). -/
def armedAlarm (a : Alarm) : Except RefusalReason Alarm :=
  if a.intervalLength = 0#16 then .error .noInterval else .ok a

end Sys2Proof.Machine
end

