-- ==== Sys2Proof/Machine/Access.lean ====
section
/-! DEFINITION. The register access command READ_REG (R200). -/

namespace Sys2Proof.Machine

/-- READ_REG i: the view of R61, with no side effect (R200). -/
def execReadReg (i : Byte) (s : State) : Result :=
  byAgent .consumer s (withOperand (regOperand i) s fun r => done (view r s) s)

end Sys2Proof.Machine
end

