-- ==== Sys2Proof/Machine/Accumulator.lean ====
section
/-! DEFINITION. The TickAccumulator commands: RECORD_TICK, PENDING_TICKS, RETIRE, RETIRE_ALL (R100 to R104). -/

namespace Sys2Proof.Machine

/-- RECORD_TICK: `eventCount <- (eventCount + 1) mod 2^W` (R101). -/
def execRecordTick (s : State) : Result :=
  byAgent .tick s
    (done 0#32 (s.withAcc { s.acc with eventCount := counterSum s.cfg.W s.acc.eventCount 1 }))

/-- PENDING_TICKS: returns the pending count, writes nothing (R102). -/
def execPendingTicks (s : State) : Result :=
  byAgent .consumer s (done (BitVec.ofNat 32 (s.acc.pending s.cfg.W)) s)

/-- RETIRE n: `retiredCount <- (retiredCount + n) mod 2^W`, not clamped (R103). -/
def execRetire (n : Half) (s : State) : Result :=
  byAgent .consumer s (done 0#32 (s.withAcc (s.acc.retireBy s.cfg.W (u16Value n))))

/-- RETIRE_ALL: `retiredCount <- eventCount` (R104). -/
def execRetireAll (s : State) : Result :=
  byAgent .consumer s (done 0#32 (s.withAcc { s.acc with retiredCount := s.acc.eventCount }))

end Sys2Proof.Machine
end

