-- ==== Sys2Proof/Machine/Debouncer.lean ====
section
/-! DEFINITION. The QuadratureDebouncer command QD_UPDATE (R170 to R182): the button sub-machine, the quadrature
sub-machine, and the command that composes them. -/

namespace Sys2Proof.Machine

/-! ## Button sub-machine, R172 to R176 -/

/-- The history with the raw bit shifted in, newest at bit 0 (R172). -/
def shiftedHistory (h : Byte) (b : Bool) : Byte := (h <<< 1) ||| (BitVec.ofBool b).setWidth 8

/-- The new debounced state when the shifted history is saturated to the opposite level, if it is (R173). -/
def ButtonState.transition (st : ButtonState) (sr : Byte) : Option ButtonState :=
  match st with
  | .released => if sr = 0xFF#8 then some .pressed else none
  | .pressed => if sr = 0x00#8 then some .released else none

/-- The hold count and divider in an update with no transition, and the hold event (R176). -/
def Button.held (UI_DIV : Nat) (x : Button) : Button × Word :=
  if x.holdDiv.toNat + 1 = UI_DIV then
    if x.holdCount.toNat < 255 then
      ({ x with holdDiv := 0#8, holdCount := BitVec.ofNat 8 (x.holdCount.toNat + 1) }, evHoldTick)
    else ({ x with holdDiv := 0#8 }, evHoldSaturated)
  else ({ x with holdDiv := BitVec.ofNat 8 (x.holdDiv.toNat + 1) }, 0#32)

/-- `button_step(b)` of R171: the button sub-machine after the raw bit `b`, and its event bits. A transition clears the
hold count and divider and reports no hold event (R175). -/
def Button.step (UI_DIV : Nat) (b : Bool) (x : Button) : Button × Word :=
  let sr := shiftedHistory x.btnShift b
  match x.btnState.transition sr with
  | some st =>
    ({ btnShift := sr, btnState := st, holdCount := 0#8, holdDiv := 0#8 },
      unvalidatedEvent sr ||| transitionEvent (some st))
  | none =>
    let h := Button.held UI_DIV { x with btnShift := sr }
    (h.1, unvalidatedEvent sr ||| h.2)

/-! ## Quadrature sub-machine, R180 to R182 -/

/-- The decode table of R181, row 0b0000 first. -/
def rotationTable : List Rotation :=
  [ .noChange, .clockwise, .counterclockwise, .illegalDouble,           -- 00 → 00, 01, 10, 11
    .counterclockwise, .noChange, .illegalDouble, .clockwise,           -- 01 → 00, 01, 10, 11
    .clockwise, .illegalDouble, .noChange, .counterclockwise,           -- 10 → 00, 01, 10, 11
    .illegalDouble, .counterclockwise, .clockwise, .noChange ]          -- 11 → 00, 01, 10, 11

/-- The decode of a window (R181). The table has a row for each of the 16 windows, so the default is never taken. -/
def rotationOf (nyb : BitVec 4) : Rotation := rotationTable.getD nyb.toNat .noChange

/-- The change of `rotationCount` a decode asks for (R182). -/
def Rotation.delta : Rotation → Int
  | .noChange => 0
  | .clockwise => 1
  | .counterclockwise => -1
  | .illegalDouble => 0

/-- `rotationCount` changed by `d`, at its ends as `ROT_MODE` says (R10, R182). -/
def rotated (m : RotMode) (c : Byte) (d : Int) : Byte :=
  match m with
  | .wrap => BitVec.ofInt 8 (c.toInt + d)
  | .saturate => BitVec.ofInt 8 (min 127 (max (-128) (c.toInt + d)))

/-- `{quadNyb[1:0], q}`, the window with the new sample shifted in (R180). -/
def shiftedWindow (nyb : BitVec 4) (q : BitVec 2) : BitVec 4 := nyb.extractLsb' 0 2 ++ q

/-- `quad_step(q)` of R171: the quadrature sub-machine after the raw sample `q`, and its event bits. -/
def Quad.step (m : RotMode) (q : BitVec 2) (x : Quad) : Quad × Word :=
  let nyb := shiftedWindow x.quadNyb q
  ({ quadNyb := nyb, rotationCount := rotated m x.rotationCount (rotationOf nyb).delta }, (rotationOf nyb).event)

/-! ## The command -/

/-- QD_UPDATE b, q (R171): both sub-machines, which share no element (R36), in one command. -/
def execQdUpdate (b : Bool) (q : BitVec 2) (s : State) : Result :=
  let button := s.button.step s.cfg.UI_DIV.toNat b
  let quad := s.quad.step s.cfg.ROT_MODE q
  byAgent .consumer s (done (button.2 ||| quad.2) ((s.withButton button.1).withQuad quad.1))

end Sys2Proof.Machine
end

