-- ==== Sys2Proof/Machine/Reload.lean ====
section
/-! DEFINITION. The TrimmedTickAccumulator commands: SET_TRIM, NEXT_RELOAD (R120 to R125). -/

namespace Sys2Proof.Machine

/-- The trim SET_TRIM writes for a legal `k`: magnitude, sign, and the cycle restarted in its active half (R121). -/
def Trim.configured (k : Int) : Trim where
  trimMag := BitVec.ofNat 7 k.natAbs
  trimNeg := decide (k < 0)
  trimIdx := 0#7
  trimActive := decide (k ≠ 0)

/-- `adj` of R124. -/
def Trim.adjustment (t : Trim) : Int :=
  if t.trimActive then (if t.trimNeg then -1 else 1) else 0

/-- `advance_cycle()` of R125: the flag flips when the position reaches the threshold. -/
def Trim.advanced (t : Trim) : Trim :=
  if t.trimIdx.toNat + 1 = t.trimMag.toNat then
    { t with trimIdx := 0#7, trimActive := !t.trimActive }
  else
    { t with trimIdx := BitVec.ofNat 7 (t.trimIdx.toNat + 1) }

/-- The reload value before the advance: `BASE`, plus the adjustment when a trim is set (R122, R123). -/
def Trim.reload (BASE : Half) (t : Trim) : Int :=
  if t.trimMag = 0#7 then (BASE.toNat : Int) else (BASE.toNat : Int) + t.adjustment

/-- The trim after a NEXT_RELOAD: untouched while trimming is disabled (R122, R123). -/
def Trim.afterReload (t : Trim) : Trim := if t.trimMag = 0#7 then t else t.advanced

/-- SET_TRIM k (R121). -/
def execSetTrim (k : Byte) (s : State) : Result :=
  byAgent .consumer s
    (withOperand (trimOperand k) s fun k => done 0#32 (s.withTrim (Trim.configured k)))

/-- NEXT_RELOAD (R123): the result is computed before the cycle advances. -/
def execNextReload (s : State) : Result :=
  byAgent .tick s
    (done (BitVec.ofInt 32 (s.trim.reload s.cfg.BASE)) (s.withTrim s.trim.afterReload))

end Sys2Proof.Machine
end

