-- ==== Sys2Proof/Machine/WallClock.lean ====
section
/-! DEFINITION. The SoftwareClock commands: CLOCK_ADVANCE, CLOCK_UPDATE, START_INTERVAL, INTERVAL_ELAPSED,
CONSUME_INTERVAL (R140 to R162). -/

namespace Sys2Proof.Machine

/-- CLOCK_ADVANCE n: the accumulator is not touched (R141). -/
def execClockAdvance (n : Half) (s : State) : Result :=
  byAgent .consumer s (done 0#32 (s.withClock (s.clock.advance (u16Value n))))

/-- CLOCK_UPDATE: read the pending count, retire it and advance the clock by it, in one command (R145). -/
def execClockUpdate (s : State) : Result :=
  let p := s.acc.pending s.cfg.W
  byAgent .consumer s
    (done (BitVec.ofNat 32 p) ((s.withAcc (s.acc.retireBy s.cfg.W p)).withClock (s.clock.advance p)))

/-- The alarm START_INTERVAL arms: the deadline is `n` after `milliseconds`, modulo `R` (R150). -/
def Alarm.armed (R : Nat) (ms : Half) (n : Half) : Alarm where
  intervalLength := n
  nextIntervalDeadline := BitVec.ofNat 16 ((ms.toNat + n.toNat) % R)

/-- The alarm after a successful consume: the deadline one interval on, modulo `R` (R162). -/
def Alarm.rearmed (R : Nat) (a : Alarm) : Alarm :=
  { a with nextIntervalDeadline := BitVec.ofNat 16 ((a.nextIntervalDeadline.toNat + a.intervalLength.toNat) % R) }

/-- START_INTERVAL n (R150). -/
def execStartInterval (n : Half) (s : State) : Result :=
  byAgent .consumer s
    (withOperand (intervalOperand n) s fun n =>
      done 0#32 (s.withAlarm (Alarm.armed s.cfg.R.toNat s.clock.milliseconds n)))

/-- INTERVAL_ELAPSED (R157). -/
def execIntervalElapsed (s : State) : Result :=
  byAgent .consumer s
    (withOperand (armedAlarm s.alarm) s fun a =>
      done (boolResult (a.elapsed s.cfg.R.toNat s.clock.milliseconds)) s)

/-- CONSUME_INTERVAL (R162). -/
def execConsumeInterval (s : State) : Result :=
  byAgent .consumer s
    (withOperand (armedAlarm s.alarm) s fun a =>
      if a.elapsed s.cfg.R.toNat s.clock.milliseconds then
        done (boolResult true) (s.withAlarm (a.rearmed s.cfg.R.toNat))
      else done (boolResult false) s)

end Sys2Proof.Machine
end

