-- ==== Sys2Proof/Machine/Dispatch.lean ====
section
/-! DEFINITION. The meaning of a decoded command, one arm a command: checks 3 to 5 of R87 at the state whose `issuer`
issued it. -/

namespace Sys2Proof.Machine

def exec (i : Instr) (s : State) : Host.Outcome State Fault Refusal :=
  match i with
  | .recordTick => Sys2Proof.Machine.execRecordTick s
  | .nextReload => Sys2Proof.Machine.execNextReload s
  | .pendingTicks => Sys2Proof.Machine.execPendingTicks s
  | .retire n => Sys2Proof.Machine.execRetire n s
  | .retireAll => Sys2Proof.Machine.execRetireAll s
  | .setTrim k => Sys2Proof.Machine.execSetTrim k s
  | .clockAdvance n => Sys2Proof.Machine.execClockAdvance n s
  | .clockUpdate => Sys2Proof.Machine.execClockUpdate s
  | .startInterval n => Sys2Proof.Machine.execStartInterval n s
  | .intervalElapsed => Sys2Proof.Machine.execIntervalElapsed s
  | .consumeInterval => Sys2Proof.Machine.execConsumeInterval s
  | .qdUpdate b q => Sys2Proof.Machine.execQdUpdate b q s
  | .readReg r => Sys2Proof.Machine.execReadReg r s

end Sys2Proof.Machine
end

