-- ==== Sys2Proof/Machine/Step.lean ====
section
/-! DEFINITION. One step of the machine: one command, applied whole (R64, R67, R87). -/

namespace Sys2Proof.Machine

/-- One step. The front command of the inbox is decoded and applied, or refused by decoding (R87); with none waiting
the block holds its state (R225; entry 5); a configuration that gives no instance is refused (R241; entry 10). -/
def step (s : State) : Host.Outcome State Fault Refusal :=
  match fetch s with
  | .noInstance => .refused .illegalConfig
  | .idle => .next s
  | .command w t =>
    match decode w with
    | .ok i => exec i t
    | .error r => takeRefusal r t

/-- `s` with a table row's word delivered as its next command, on the port of the agent R86 names for the row
(R89; entry 11). -/
def State.withFetchWord (s : State) (nbits w : Nat) : State := s.deliver (tableCommand nbits w)

end Sys2Proof.Machine
end

