-- ==== Sys2Proof/Machine/Assembler.lean ====
section
/-! DEFINITION. The spec's assembler syntax (R89) and its pseudo-instructions (R90): a program line to the commands it
issues. The machine does not use it; listings do. Blanks, letter case and empty lines are DESIGN CHOICE (entry 16). -/

namespace Sys2Proof

/-- The mnemonic column of R86. -/
def Opcode.mnemonic : Opcode → String
  | .recordTick => "RECORD_TICK"
  | .nextReload => "NEXT_RELOAD"
  | .pendingTicks => "PENDING_TICKS"
  | .retire => "RETIRE"
  | .retireAll => "RETIRE_ALL"
  | .setTrim => "SET_TRIM"
  | .clockAdvance => "CLOCK_ADVANCE"
  | .clockUpdate => "CLOCK_UPDATE"
  | .startInterval => "START_INTERVAL"
  | .intervalElapsed => "INTERVAL_ELAPSED"
  | .consumeInterval => "CONSUME_INTERVAL"
  | .qdUpdate => "QD_UPDATE"
  | .readReg => "READ_REG"

/-- The register names of R61 in index order. -/
def registerNames : List String :=
  ["EVENT_COUNT", "RETIRED_COUNT", "BASE_INTERVAL", "TRIM_CFG", "TRIM_CYCLE", "MILLISECONDS", "MINUTES",
   "INTERVAL_LENGTH", "INTERVAL_DEADLINE", "BUTTON_SHIFT", "BUTTON_STATE", "HOLD_COUNT", "HOLD_DIV",
   "QUAD_NYBBLE", "ROTATION_COUNT"]

/-! ## Tokens -/

/-- A token: a word, a word that ends in a colon, or a comma. -/
abbrev Token := List Char

/-- The tokens with the word being read put in front, if there is one. -/
def flushToken (r : Token × List Token) : List Token := if r.1.isEmpty then r.2 else r.1 :: r.2

/-- One more character in front of what has been read: a blank, a comma and a colon end a word. -/
def tokenStep (c : Char) (r : Token × List Token) : Token × List Token :=
  if c == ' ' || c == '\t' then ([], flushToken r)
  else if c == ',' then ([], [','] :: flushToken r)
  else if c == ':' then ([':'], flushToken r)
  else (c :: r.1, r.2)

/-- The tokens of a line; `;` starts a comment (R89). -/
def tokens (line : String) : List Token :=
  flushToken ((line.toList.takeWhile (· != ';')).foldr tokenStep ([], []))

/-! ## Numbers: decimal, hexadecimal with `0x`, binary with `0b` (R89) -/

/-- The value of a digit in a base, if it is one. -/
def digitValue (base : Nat) (c : Char) : Option Nat :=
  let v :=
    if '0' ≤ c ∧ c ≤ '9' then some (c.toNat - '0'.toNat)
    else if 'a' ≤ c ∧ c ≤ 'f' then some (c.toNat - 'a'.toNat + 10)
    else if 'A' ≤ c ∧ c ≤ 'F' then some (c.toNat - 'A'.toNat + 10)
    else none
  v.filter (· < base)

/-- The digits after the first, most significant first. -/
def digitsFrom (base : Nat) : Nat → List Char → Option Nat
  | acc, [] => some acc
  | acc, c :: cs =>
    match digitValue base c with
    | some d => digitsFrom base (acc * base + d) cs
    | none => none

/-- A number of at least one digit. -/
def digits (base : Nat) (cs : List Char) : Option Nat := if cs.isEmpty then none else digitsFrom base 0 cs

/-- An unsigned number. -/
def unsignedNumber : Token → Option Nat
  | '0' :: 'x' :: ds => digits 16 ds
  | '0' :: 'b' :: ds => digits 2 ds
  | ds => digits 10 ds

/-- A signed number. -/
def signedNumber : Token → Option Int
  | '-' :: ds => (unsignedNumber ds).map fun n => -(n : Int)
  | ds => (unsignedNumber ds).map fun n => (n : Int)

/-- A number 0 to `max`. -/
def boundedNumber (max : Nat) (t : Token) : Option Nat := (unsignedNumber t).filter (· ≤ max)

/-! ## Operands and lines -/

/-- The S8 operand: a signed number -127 to 127 (R89). -/
def trimToken (t : Token) : Option Byte :=
  ((signedNumber t).filter fun k => decide (-127 ≤ k ∧ k ≤ 127)).map fun k => BitVec.ofInt 8 k

/-- The IDX operand: a number 0 to 255 or a register name (R89). -/
def indexToken (t : Token) : Option Byte :=
  match registerNames.findIdx? (fun n => n.toList == t) with
  | some i => some (BitVec.ofNat 8 i)
  | none => (boundedNumber 255 t).map fun i => BitVec.ofNat 8 i

/-- The U16 operand: an unsigned number 0 to 65535 (R89). -/
def halfToken (t : Token) : Option Half := (boundedNumber 65535 t).map fun n => BitVec.ofNat 16 n

/-- The command of a mnemonic with the operand tokens that follow it, by its format (R89). -/
def commandOf (o : Opcode) (ts : List Token) : Option Instr :=
  match o, ts with
  | .recordTick, [] => some .recordTick
  | .nextReload, [] => some .nextReload
  | .pendingTicks, [] => some .pendingTicks
  | .retire, [t] => (halfToken t).map .retire
  | .retireAll, [] => some .retireAll
  | .setTrim, [t] => (trimToken t).map .setTrim
  | .clockAdvance, [t] => (halfToken t).map .clockAdvance
  | .clockUpdate, [] => some .clockUpdate
  | .startInterval, [t] => (halfToken t).map .startInterval
  | .intervalElapsed, [] => some .intervalElapsed
  | .consumeInterval, [] => some .consumeInterval
  | .qdUpdate, [b, [','], q] =>
    match boundedNumber 1 b, boundedNumber 3 q with
    | some b, some q => some (.qdUpdate (b == 1) (BitVec.ofNat 2 q))
    | _, _ => none
  | .readReg, [t] => (indexToken t).map .readReg
  | _, _ => none

/-- The agent prefix of a line, if it has one, and the tokens after it (R89). -/
def agentPrefix : List Token → Option Agent × List Token
  | ['T', ':'] :: ts => (some .tick, ts)
  | ['C', ':'] :: ts => (some .consumer, ts)
  | ts => (none, ts)

/-- What a program line issues. -/
inductive Line where
  /-- Nothing: an empty line or a comment. -/
  | blank
  /-- These commands, in order. -/
  | commands (cs : List Command)
  /-- `POLL`: its commands depend on the pending count it reads, `pollCommands` (R90). -/
  | poll
deriving DecidableEq, Repr

/-- `TICK`: the tick agent's pair (R90). -/
def tickCommands : List Command := [Instr.recordTick.issued, Instr.nextReload.issued]

/-- `POLL` where PENDING_TICKS returned `p` (R90). -/
def pollCommands (p : Half) : List Command :=
  [Instr.pendingTicks.issued, (Instr.retire p).issued, (Instr.clockAdvance p).issued]

/-- The core command a line names: a mnemonic with its operands, or one of the two pseudo-instructions that stand for
one command, `RETIRE ALL` and `TRIM_OFF` (R90). -/
def lineCommand (ts : List Token) : Option Instr :=
  match ts with
  | [] => none
  | m :: operands =>
    if m == "RETIRE".toList && operands == ["ALL".toList] then some .retireAll
    else if m == "TRIM_OFF".toList && operands.isEmpty then some (.setTrim 0#8)
    else
      match Opcode.all.find? (fun o => o.mnemonic.toList == m) with
      | some o => commandOf o operands
      | none => none

/-- A program line (R89, R90): `none` where it is no line of the syntax. -/
def assembleLine (line : String) : Option Line :=
  let ts := tokens line
  if ts.isEmpty then some .blank
  else if ts == ["TICK".toList] then some (.commands tickCommands)
  else if ts == ["POLL".toList] then some .poll
  else
    let (agent, rest) := agentPrefix ts
    (lineCommand rest).map fun i => .commands [⟨agent.getD i.owner, encode i⟩]

end Sys2Proof
end

