-- ==== Sys2Proof/Safety.lean ====
section
/-! DEFINITION. The terms claims are stated in: the invariant of a run, a run over a sequence of commands (R15), what
a refusal rule says, and the loop of R142. -/

namespace Sys2Proof.Machine

/-! ## The ranges of R20, R28, R29, R32, R40 and R46 -/

/-- Both counters are below `2^W` (R22, R23). -/
abbrev Accumulator.InRange (W : Nat) (a : Accumulator) : Prop :=
  a.eventCount.toNat < 2 ^ W ∧ a.retiredCount.toNat < 2 ^ W

/-- `trimMag = 0` means everything of the trim is 0; otherwise the position is below the threshold (R28, R29, R46). -/
abbrev Trim.Consistent (t : Trim) : Prop :=
  (t.trimMag = 0#7 → t.trimIdx = 0#7 ∧ t.trimActive = false ∧ t.trimNeg = false) ∧
  (t.trimMag ≠ 0#7 → t.trimIdx.toNat < t.trimMag.toNat)

/-- `milliseconds < 60000` (R32). -/
abbrev Clock.InRange (c : Clock) : Prop := c.milliseconds.toNat < 60000

/-- The deadline is below `R` (R35, R46). -/
abbrev Alarm.InRange (R : Nat) (a : Alarm) : Prop := a.nextIntervalDeadline.toNat < R

/-- `holdDiv < UI_DIV` (R40). -/
abbrev Button.InRange (UI_DIV : Nat) (b : Button) : Prop := b.holdDiv.toNat < UI_DIV

/-- The history is not saturated to the level opposite to the debounced state: the update that saturated it would have
flipped the state (R43, R173). -/
abbrev Button.Settled (b : Button) : Prop :=
  (b.btnState = .released → b.btnShift ≠ 0xFF#8) ∧ (b.btnState = .pressed → b.btnShift ≠ 0x00#8)

/-- The invariant of every run: a legal instance whose elements are in the ranges of R20. -/
abbrev State.Inv (s : State) : Prop :=
  s.cfg.legal = true ∧ s.acc.InRange s.cfg.W ∧ s.trim.Consistent ∧ s.clock.InRange ∧
  s.alarm.InRange s.cfg.R.toNat ∧ s.button.InRange s.cfg.UI_DIV.toNat

/-- No refusal has been recorded: the premise R18 asks of claims about runs. -/
abbrev State.Unrefused (s : State) : Prop := s.refusal = none

/-- The 16 elements of R20 are the same in both states. -/
abbrev State.SameElements (s t : State) : Prop :=
  s.acc = t.acc ∧ s.trim = t.trim ∧ s.clock = t.clock ∧ s.alarm = t.alarm ∧ s.button = t.button ∧ s.quad = t.quad

/-! ## Runs, R15 -/

/-- The machine's steps from `s` when the agents issue exactly `cmds`, in that order (R15, R67). -/
def runCommands (cmds : List Command) (s : State) : Result :=
  Sys2Proof.core.run cmds.length { s with inbox := cmds }

/-- The QD_UPDATE commands of a sequence of samples. -/
def sampleCommands (samples : List (Bool × BitVec 2)) : List Command :=
  samples.map fun x => (Instr.qdUpdate x.1 x.2).issued

/-! ## What the refusal clauses of a command rule say -/

/-- Every word of the opcode byte `o` with a bit of `reserved` set is refused with ReservedBits (R87 check 2). -/
def ReservedBitsRefused (o : Byte) (reserved : Word) : Prop :=
  ∀ w : Word, w.extractLsb' 24 8 = o → w &&& reserved ≠ 0#32 → decode w = .error .reservedBits

/-- The refused outcome with reason `r` (R18, R211): no element changes, no result is returned, nothing else of the
state changes, and the mark is set. That a mark already set takes the newer reason is the model's choice (entry 8) and
is not said here. -/
def RefusedWith (r : RefusalReason) (s : State) (o : Result) : Prop :=
  ∃ t, o = .next t ∧ s.SameElements t ∧ t.results = s.results ∧ t.cfg = s.cfg ∧ t.inbox = s.inbox ∧
    t.refusal ≠ none ∧ (s.Unrefused → t.refusal = some r)

/-- The command, issued by `a`, is refused with WrongAgent (R87 check 3, R212). -/
def WrongAgentRefused (a : Agent) (i : Instr) : Prop :=
  ∀ s : State, s.issuer = a → RefusedWith .wrongAgent s (exec i s)

/-! ## The loop of R142 -/

/-- "if `milliseconds >= 60000` after addition, subtract 60000 and increment `minutes` exactly once per rollover",
repeated; the pair is (milliseconds, minutes) and the first argument bounds the repetitions. -/
def rolloverLoop : Nat → Nat × Nat → Nat × Nat
  | 0, p => p
  | k + 1, p => if 60000 ≤ p.1 then rolloverLoop k (p.1 - 60000, (p.2 + 1) % 2 ^ 16) else p

end Sys2Proof.Machine
end

