-- ==== Sys2Proof/Certificates/Slice0/Obligations.lean ====
section
/-! DEFINITION. The statements for the provers. Where a statement names rules R<n>, they are the rules of spec/ it
formalises. A statement over `exec` is about one command applied at a state whose `issuer` issued it; a statement over
`runCommands` is about the machine's own steps while the agents issue the listed commands. All hold for every legal
configuration, not only for the one `State.reset` has. `RefusedWith` is the refused outcome as R18 and R211 give it. -/

open Sys2Proof Sys2Proof.Machine

/-! ## Encoding -/

/-- R80 to R85, R87: the decoder reads back every command the encoder writes, with every operand at every value. -/
def Obligations.DecodeReadsBackEveryEncodedCommand : Prop :=
  ∀ i : Instr, decode (encode i) = .ok i

/-- R80, R81, R87: a word that decodes is the only word of its command, so no bit of a word is ignored. -/
def Obligations.EachCommandHasOneWord : Prop :=
  ∀ (w : Word) (i : Instr), decode w = .ok i → encode i = w

/-- R81, R86, R87 checks 1 and 2: the words that decode, and the reason a word does not. -/
def Obligations.DecodingRefusesOpcodeThenReservedBits : Prop :=
  ∀ w : Word,
    (w.extractLsb' 24 8 ∉ [0x01#8, 0x02#8, 0x10#8, 0x11#8, 0x12#8, 0x20#8, 0x30#8, 0x31#8, 0x32#8, 0x33#8, 0x34#8,
        0x40#8, 0x50#8] →
      decode w = .error .illegalOpcode) ∧
    ∀ o reserved, (o, reserved) ∈
        [(0x01#8, 0x00FFFFFF#32), (0x02#8, 0x00FFFFFF#32), (0x10#8, 0x00FFFFFF#32), (0x11#8, 0x00FF0000#32),
         (0x12#8, 0x00FFFFFF#32), (0x20#8, 0x00FFFF00#32), (0x30#8, 0x00FF0000#32), (0x31#8, 0x00FFFFFF#32),
         (0x32#8, 0x00FF0000#32), (0x33#8, 0x00FFFFFF#32), (0x34#8, 0x00FFFFFF#32), (0x40#8, 0x00FFFFF8#32),
         (0x50#8, 0x00FFFF00#32)] →
      w.extractLsb' 24 8 = o →
        (w &&& reserved ≠ 0#32 → decode w = .error .reservedBits) ∧
        (w &&& reserved = 0#32 → ∃ i, decode w = .ok i)

/-- Sanity: words of the examples of R89, R90, V20 to V22 and P4 decode to the commands they are written for. -/
def Obligations.ExampleWordsDecode : Prop :=
  decode 0x11000005#32 = .ok (.retire 5#16) ∧
  decode 0x200000FD#32 = .ok (.setTrim (BitVec.ofInt 8 (-3))) ∧
  decode 0x40000005#32 = .ok (.qdUpdate true 0b01#2) ∧
  decode 0x50000005#32 = .ok (.readReg 5#8) ∧
  decode 0x12000000#32 = .ok .retireAll ∧
  decode 0x01000000#32 = .ok .recordTick ∧
  decode 0x02000000#32 = .ok .nextReload ∧
  decode 0x320003E8#32 = .ok (.startInterval 1000#16) ∧
  decode 0x00000000#32 = .error .illegalOpcode

/-- R89, R90: the example lines assemble to their words, and the pseudo-instructions to their expansions. -/
def Obligations.ExampleLinesAssemble : Prop :=
  assembleLine "RETIRE 5" = some (.commands [⟨.consumer, 0x11000005#32⟩]) ∧
  assembleLine "SET_TRIM -3" = some (.commands [⟨.consumer, 0x200000FD#32⟩]) ∧
  assembleLine "QD_UPDATE 1, 0b01" = some (.commands [⟨.consumer, 0x40000005#32⟩]) ∧
  assembleLine "READ_REG MILLISECONDS" = some (.commands [⟨.consumer, 0x50000005#32⟩]) ∧
  assembleLine "RETIRE ALL" = some (.commands [⟨.consumer, 0x12000000#32⟩]) ∧
  assembleLine "TRIM_OFF" = some (.commands [⟨.consumer, 0x20000000#32⟩]) ∧
  assembleLine "TICK" = some (.commands [⟨.tick, 0x01000000#32⟩, ⟨.tick, 0x02000000#32⟩]) ∧
  assembleLine "T: CLOCK_ADVANCE 5 ; the wrong agent" = some (.commands [⟨.tick, 0x30000005#32⟩])

/-! ## One step, refusal, reset and the invariant -/

/-- R64, R67, R87: a step applies the decoded front command, whole, at the state that names its issuer. The waiting
list and the issuer are the model's own fields (entries 4 and 6). -/
def Obligations.StepAppliesTheFrontCommand : Prop :=
  ∀ (s : State) (c : Command) (rest : List Command) (i : Instr),
    s.cfg.legal = true → s.inbox = c :: rest → decode c.word = .ok i →
      step s = exec i { s with issuer := c.agent, inbox := rest }

/-- R87, R88: a front word that decodes to no command is taken and refused; nothing else changes. That a mark already
set takes the newer reason is the model's choice (entry 8). -/
def Obligations.StepRefusesAWordThatDoesNotDecode : Prop :=
  ∀ (s : State) (c : Command) (rest : List Command) (r : RefusalReason),
    s.cfg.legal = true → s.inbox = c :: rest → decode c.word = .error r →
      step s = .next { s with issuer := c.agent, inbox := rest, refusal := some r }

/-- R225 and the model's choice of entry 5: with no command waiting a step changes nothing. -/
def Obligations.BlockHoldsItsStateBetweenCommands : Prop :=
  ∀ s : State, s.cfg.legal = true → s.inbox = [] → step s = .next s

/-- R6 to R11, R241, and the model's choice of entry 10: outside the legal ranges no step runs; inside them every step
answers a next state of the same configuration, so nothing faults and nothing sticks (R18, R210). -/
def Obligations.StepRunsExactlyForLegalConfigurations : Prop :=
  ∀ s : State,
    let legal := (s.cfg.W = 8 ∨ s.cfg.W = 16) ∧ (1 ≤ s.cfg.BASE.toNat ∧ s.cfg.BASE.toNat ≤ 65534) ∧
      1 ≤ s.cfg.R.toNat ∧ 1 ≤ s.cfg.UI_DIV.toNat ∧ s.cfg.INIT_MS.toNat ≤ 59999
    (legal → ∃ t, step s = .next t ∧ t.cfg = s.cfg) ∧ (¬ legal → step s = .refused .illegalConfig)

/-- R13, R212: a command issued by the agent R86 does not name for it is refused, whatever its operand. -/
def Obligations.CommandOfTheOtherAgentIsRefused : Prop :=
  ∀ (s : State) (i : Instr),
    (s.issuer = .consumer ∧ (i = .recordTick ∨ i = .nextReload)) ∨
      (s.issuer = .tick ∧ i ≠ .recordTick ∧ i ≠ .nextReload) →
    RefusedWith .wrongAgent s (exec i s)

/-- R211: the codes, and when each operand reason is raised. Codes 1 and 2 are raised by decoding
(DecodingRefusesOpcodeThenReservedBits, StepRefusesAWordThatDoesNotDecode), before codes 3 to 7. -/
def Obligations.OperandRefusalsAndTheirCodes : Prop :=
  [RefusalReason.illegalOpcode, .reservedBits, .wrongAgent, .reservedOperand, .zeroInterval, .noInterval,
    .reservedIndex].map RefusalReason.code = [1, 2, 3, 4, 5, 6, 7] ∧
  ∀ s : State, s.issuer = .consumer →
    RefusedWith .reservedOperand s (exec (.setTrim 0x80#8) s) ∧
    RefusedWith .zeroInterval s (exec (.startInterval 0#16) s) ∧
    (s.alarm.intervalLength = 0#16 →
      RefusedWith .noInterval s (exec .intervalElapsed s) ∧ RefusedWith .noInterval s (exec .consumeInterval s)) ∧
    ∀ i : Byte, 0x0E < i.toNat → RefusedWith .reservedIndex s (exec (.readReg i) s)

/-- R18: a command is done, returning exactly one result to its issuer, or refused, changing no element and returning
none; the mark a refusal sets is cleared by no later command. -/
def Obligations.CommandIsDoneOrRefused : Prop :=
  ∀ (s : State) (c : Command) (rest : List Command), s.cfg.legal = true → s.inbox = c :: rest →
    ∃ t, step s = .next t ∧ (s.refusal ≠ none → t.refusal ≠ none) ∧
      ((∃ v, t.results = s.results ++ [⟨c.agent, v⟩] ∧ t.refusal = s.refusal) ∨
       (t.results = s.results ∧ s.SameElements t ∧ t.refusal ≠ none))

/-- R18, R211 and the model's choice of entry 8: a command that returns no result changes nothing but the mark, which
then holds this command's own reason, whatever it held before. -/
def Obligations.RefusalChangesOnlyTheMark : Prop :=
  ∀ (s t : State) (i : Instr) (m : Option RefusalReason), exec i s = .next t → t.results = s.results →
    ∃ r, t = { s with refusal := some r } ∧ exec i { s with refusal := m } = .next t

/-- R67: a command reads the state every command before it left, and nothing of the commands after it. -/
def Obligations.CommandsWaitingAreNotRead : Prop :=
  ∀ (s t : State) (c : Command) (xs ys : List Command),
    step { s with inbox := c :: xs } = .next t → step { s with inbox := c :: ys } = .next { t with inbox := ys }

/-- R20, R28, R29, R32, R35, R40, R46: every step keeps the ranges of the elements. -/
def Obligations.StepKeepsTheElementRanges : Prop :=
  ∀ s t : State, s.Inv → step s = .next t → t.Inv

/-- R240: a reset with a legal configuration leaves every element in its range. That `State.reset` has `W = 8` and
`BASE = 250` is the model's choice (entry 3). -/
def Obligations.ResetMeetsTheElementRanges : Prop :=
  (∀ c : Config, c.legal = true → (State.resetWith c).Inv) ∧ State.reset.Inv

/-- R240: the complete reset state, for every configuration; nothing waiting, no result, the mark clear. -/
def Obligations.ResetStateIsAsListed : Prop :=
  ∀ c : Config,
    let s := State.resetWith c
    s.cfg = c ∧ s.acc.eventCount = 0#16 ∧ s.acc.retiredCount = 0#16 ∧
    s.trim.trimMag = 0#7 ∧ s.trim.trimNeg = false ∧ s.trim.trimIdx = 0#7 ∧ s.trim.trimActive = false ∧
    s.clock.milliseconds = c.INIT_MS ∧ s.clock.minutes = 0#16 ∧ s.alarm.intervalLength = c.INIT_INTERVAL ∧
    (c.INIT_INTERVAL ≠ 0#16 → 1 ≤ c.R.toNat →
      s.alarm.nextIntervalDeadline.toNat = (c.INIT_MS.toNat + c.INIT_INTERVAL.toNat) % c.R.toNat) ∧
    (c.INIT_INTERVAL = 0#16 → s.alarm.nextIntervalDeadline = 0#16) ∧
    s.button.btnShift = 0x00#8 ∧ s.button.btnState = .released ∧ s.button.holdCount = 0#8 ∧
    s.button.holdDiv = 0#8 ∧ s.quad.quadNyb = 0x0#4 ∧ s.quad.rotationCount = 0#8 ∧
    s.inbox = [] ∧ s.results = [] ∧ s.refusal = none

/-- R20 (the column "written by"), R68: an element changes only in a step that applies a command that writes it, from
the agent that may issue it. The words are those of R81 and R86. -/
def Obligations.ElementsChangeOnlyByTheirWriters : Prop :=
  ∀ (s t : State) (c : Command) (rest : List Command), s.inbox = c :: rest → step s = .next t →
    (t.acc.eventCount ≠ s.acc.eventCount → c = ⟨.tick, 0x01000000#32⟩) ∧
    (t.acc.retiredCount ≠ s.acc.retiredCount → c.agent = .consumer ∧
      (c.word.extractLsb' 16 16 = 0x1100#16 ∨ c.word = 0x12000000#32 ∨ c.word = 0x31000000#32)) ∧
    (t.trim.trimMag ≠ s.trim.trimMag ∨ t.trim.trimNeg ≠ s.trim.trimNeg → c.agent = .consumer ∧
      c.word.extractLsb' 8 24 = 0x200000#24) ∧
    (t.trim.trimIdx ≠ s.trim.trimIdx ∨ t.trim.trimActive ≠ s.trim.trimActive → c = ⟨.tick, 0x02000000#32⟩ ∨
      c.agent = .consumer ∧ c.word.extractLsb' 8 24 = 0x200000#24) ∧
    (t.clock ≠ s.clock → c.agent = .consumer ∧
      (c.word.extractLsb' 16 16 = 0x3000#16 ∨ c.word = 0x31000000#32)) ∧
    (t.alarm.intervalLength ≠ s.alarm.intervalLength → c.agent = .consumer ∧
      c.word.extractLsb' 16 16 = 0x3200#16) ∧
    (t.alarm.nextIntervalDeadline ≠ s.alarm.nextIntervalDeadline → c.agent = .consumer ∧
      (c.word.extractLsb' 16 16 = 0x3200#16 ∨ c.word = 0x34000000#32)) ∧
    (t.button ≠ s.button ∨ t.quad ≠ s.quad → c.agent = .consumer ∧ c.word.extractLsb' 3 29 = 0x08000000#29)

/-- R66: PENDING_TICKS, INTERVAL_ELAPSED and READ_REG change no element and repeat their result; RETIRE_ALL and SET_TRIM
repeated at once leave what they left the first time. -/
def Obligations.ReadsRepeatAndTwoWritesAreIdempotent : Prop :=
  ∀ (s t : State) (i : Instr), s.issuer = .consumer → exec i s = .next t →
    (i = .pendingTicks ∨ i = .intervalElapsed ∨ (∃ r, i = .readReg r) →
      s.SameElements t ∧ ∃ u new, exec i t = .next u ∧ s.SameElements u ∧ t.results = s.results ++ new ∧
        u.results = t.results ++ new) ∧
    (i = .retireAll ∨ (∃ k, i = .setTrim k) → ∃ u, exec i t = .next u ∧ t.SameElements u)

/-- R2, R36, R140: the debouncer is independent: no other command but READ_REG reads or writes its elements, and
QD_UPDATE reads and writes no other element. -/
def Obligations.DebouncerIsIndependent : Prop :=
  (∀ (s t : State) (i : Instr) (b : Button) (q : Quad), (∀ x y, i ≠ .qdUpdate x y) → (∀ r, i ≠ .readReg r) →
    exec i s = .next t → exec i { s with button := b, quad := q } = .next { t with button := b, quad := q }) ∧
  (∀ (s t : State) (x : Bool) (y : BitVec 2) (a : Accumulator) (r : Trim) (c : Clock) (l : Alarm),
    exec (.qdUpdate x y) s = .next t →
      exec (.qdUpdate x y) { s with acc := a, trim := r, clock := c, alarm := l } =
        .next { t with acc := a, trim := r, clock := c, alarm := l })

/-! ## TickAccumulator -/

/-- R101. -/
def Obligations.RecordTickCountsOneTick : Prop :=
  decode 0x01000000#32 = .ok .recordTick ∧ ReservedBitsRefused 0x01#8 0x00FFFFFF#32 ∧
  WrongAgentRefused .consumer .recordTick ∧
  ∀ s : State, s.issuer = .tick →
    let a : Accumulator := { s.acc with eventCount := BitVec.ofNat 16 ((s.acc.eventCount.toNat + 1) % 2 ^ s.cfg.W) }
    exec .recordTick s = .next { s with acc := a, results := s.results ++ [⟨.tick, 0#32⟩] } ∧
    (s.cfg.legal = true → a.pending s.cfg.W = (s.acc.pending s.cfg.W + 1) % 2 ^ s.cfg.W)

/-- R102: the result is the mathematical residue of the difference; nothing is written. -/
def Obligations.PendingTicksReturnsTheDifference : Prop :=
  decode 0x10000000#32 = .ok .pendingTicks ∧ ReservedBitsRefused 0x10#8 0x00FFFFFF#32 ∧
  WrongAgentRefused .tick .pendingTicks ∧
  ∀ s : State, s.issuer = .consumer → s.cfg.legal = true →
    ∃ v : Word, (v.toNat : Int) = ((s.acc.eventCount.toNat : Int) - s.acc.retiredCount.toNat) % 2 ^ s.cfg.W ∧
      exec .pendingTicks s = .next { s with results := s.results ++ [⟨.consumer, v⟩] }

/-- R103: no clamp; the pending count goes down by `n` modulo `2^W`. -/
def Obligations.RetireAdvancesTheRetireCounter : Prop :=
  (∀ n : Half, decode (0x11000000#32 ||| n.setWidth 32) = .ok (.retire n)) ∧
  ReservedBitsRefused 0x11#8 0x00FF0000#32 ∧ (∀ n, WrongAgentRefused .tick (.retire n)) ∧
  ∀ (s : State) (n : Half), s.issuer = .consumer →
    let a : Accumulator :=
      { s.acc with retiredCount := BitVec.ofNat 16 ((s.acc.retiredCount.toNat + n.toNat) % 2 ^ s.cfg.W) }
    exec (.retire n) s = .next { s with acc := a, results := s.results ++ [⟨.consumer, 0#32⟩] } ∧
    (s.cfg.legal = true → (a.pending s.cfg.W : Int) = ((s.acc.pending s.cfg.W : Int) - n.toNat) % 2 ^ s.cfg.W)

/-- R104. -/
def Obligations.RetireAllConsumesEverythingPending : Prop :=
  decode 0x12000000#32 = .ok .retireAll ∧ ReservedBitsRefused 0x12#8 0x00FFFFFF#32 ∧
  WrongAgentRefused .tick .retireAll ∧
  ∀ s : State, s.issuer = .consumer →
    let t := { s with acc := ⟨s.acc.eventCount, s.acc.eventCount⟩, results := s.results ++ [⟨.consumer, 0#32⟩] }
    exec .retireAll s = .next t ∧
    exec .pendingTicks t = .next { t with results := t.results ++ [⟨.consumer, 0#32⟩] }

/-- R105: from equal counters, after any commands with no RETIRE, RETIRE_ALL or CLOCK_UPDATE among them, PENDING_TICKS
returns the number of RECORD_TICK commands of the tick agent modulo `2^W`. -/
def Obligations.PendingTicksCountsTheTicksModuloTheWidth : Prop :=
  ∀ (s : State) (cmds : List Command), s.cfg.legal = true → s.acc.retiredCount = s.acc.eventCount →
    (∀ c ∈ cmds, (∀ n, decode c.word ≠ .ok (.retire n)) ∧ decode c.word ≠ .ok .retireAll ∧
      decode c.word ≠ .ok .clockUpdate) →
    ∃ t before, runCommands (cmds ++ [⟨.consumer, 0x10000000#32⟩]) s = .next t ∧
      t.results = before ++ [⟨.consumer, BitVec.ofNat 32 (cmds.count ⟨.tick, 0x01000000#32⟩ % 2 ^ s.cfg.W)⟩]

/-- R106: retiring exactly what was read leaves the ticks recorded since: `j + k` of them modulo `2^W`, none if none
came. -/
def Obligations.RetiringWhatWasReadLeavesTheLateTicks : Prop :=
  ∀ (s : State) (j k : Nat), s.cfg.legal = true →
    let p := s.acc.pending s.cfg.W
    ∃ t, runCommands ([⟨.consumer, 0x10000000#32⟩] ++ List.replicate j ⟨.tick, 0x01000000#32⟩ ++
        [⟨.consumer, 0x11000000#32 ||| BitVec.ofNat 32 p⟩] ++ List.replicate k ⟨.tick, 0x01000000#32⟩ ++
        [⟨.consumer, 0x10000000#32⟩]) s = .next t ∧
      t.results = s.results ++ [⟨.consumer, BitVec.ofNat 32 p⟩] ++ List.replicate j ⟨.tick, 0#32⟩ ++
        [⟨.consumer, 0#32⟩] ++ List.replicate k ⟨.tick, 0#32⟩ ++
        [⟨.consumer, BitVec.ofNat 32 ((j + k) % 2 ^ s.cfg.W)⟩]

/-! ## TrimmedTickAccumulator -/

/-- R121. -/
def Obligations.SetTrimRestartsTheCycle : Prop :=
  (∀ k : Byte, decode (0x20000000#32 ||| k.setWidth 32) = .ok (.setTrim k)) ∧
  ReservedBitsRefused 0x20#8 0x00FFFF00#32 ∧ (∀ k, WrongAgentRefused .tick (.setTrim k)) ∧
  ∀ s : State, s.issuer = .consumer →
    RefusedWith .reservedOperand s (exec (.setTrim 0x80#8) s) ∧
    ∀ k : Byte, k ≠ 0x80#8 →
      ∃ t : Trim, exec (.setTrim k) s = .next { s with trim := t, results := s.results ++ [⟨.consumer, 0#32⟩] } ∧
        t.trimMag.toNat = k.toInt.natAbs ∧ (t.trimNeg = true ↔ k.toInt < 0) ∧ t.trimIdx = 0#7 ∧
        (t.trimActive = true ↔ k.toInt ≠ 0)

/-- R122, R123, R124, R125. The position is below the threshold (R28, part of State.Inv). -/
def Obligations.NextReloadReturnsTheAdjustedBase : Prop :=
  decode 0x02000000#32 = .ok .nextReload ∧ ReservedBitsRefused 0x02#8 0x00FFFFFF#32 ∧
  WrongAgentRefused .consumer .nextReload ∧
  ∀ s : State, s.issuer = .tick → s.Inv →
    (s.trim.trimMag = 0#7 →
      exec .nextReload s = .next { s with results := s.results ++ [⟨.tick, s.cfg.BASE.setWidth 32⟩] }) ∧
    (s.trim.trimMag ≠ 0#7 →
      ∃ (v : Word) (idx : BitVec 7) (active : Bool),
        exec .nextReload s = .next { s with
          trim := { s.trim with trimIdx := idx, trimActive := active }, results := s.results ++ [⟨.tick, v⟩] } ∧
        (v.toNat : Int) = s.cfg.BASE.toNat +
          (if s.trim.trimActive = true then (if s.trim.trimNeg = true then -1 else 1) else 0) ∧
        (s.trim.trimIdx.toNat + 1 = s.trim.trimMag.toNat → idx = 0#7 ∧ active = !s.trim.trimActive) ∧
        (s.trim.trimIdx.toNat + 1 ≠ s.trim.trimMag.toNat →
          idx.toNat = s.trim.trimIdx.toNat + 1 ∧ active = s.trim.trimActive))

/-- R126: after SET_TRIM `k`, the reload values are `|k|` adjusted ones, then `|k|` plain ones, over and over. -/
def Obligations.ReloadsArePeriodicAfterSetTrim : Prop :=
  ∀ (s : State) (k : Byte) (m : Nat), s.cfg.legal = true → k ≠ 0x80#8 → k ≠ 0#8 →
    ∃ (t : State) (values : List Word), runCommands (⟨.consumer, 0x20000000#32 ||| k.setWidth 32⟩ ::
        List.replicate m ⟨.tick, 0x02000000#32⟩) s = .next t ∧
      t.results = s.results ++ ⟨.consumer, 0#32⟩ :: values.map (fun v => ⟨.tick, v⟩) ∧
      values.map (fun v : Word => (v.toNat : Int)) = (List.range m).map fun j =>
        (s.cfg.BASE.toNat : Int) + if j % (2 * k.toInt.natAbs) < k.toInt.natAbs then k.toInt.sign else 0

/-- R127, R31: over any commands with no SET_TRIM among them that hold exactly `2*trimMag` NEXT_RELOAD commands of the
tick agent, from any phase of the cycle, the reload values sum to `P*BASE + k`; with trimming disabled any number of them
sums to that many `BASE`. RECORD_TICK, the tick agent's other command, returns 0 and does not disturb the sum. -/
def Obligations.ReloadsSumExactlyOverAPeriod : Prop :=
  ∀ (s : State) (cmds : List Command), s.Inv → (∀ c ∈ cmds, ∀ k, decode c.word ≠ .ok (.setTrim k)) →
    let P := cmds.count ⟨.tick, 0x02000000#32⟩
    let k : Int := if s.trim.trimNeg = true then -(s.trim.trimMag.toNat : Int) else s.trim.trimMag.toNat
    ∃ t new, runCommands cmds s = .next t ∧ t.results = s.results ++ new ∧
      (P = 2 * s.trim.trimMag.toNat ∨ s.trim.trimMag = 0#7 →
        ((new.filter fun r => r.agent == .tick).map fun r => (r.value.toNat : Int)).sum = P * s.cfg.BASE.toNat + k)

/-- R128. -/
def Obligations.ReloadIsWithinOneOfTheBase : Prop :=
  ∀ s : State, s.issuer = .tick → s.cfg.legal = true →
    ∃ t v, exec .nextReload s = .next t ∧ t.results = s.results ++ [⟨.tick, v⟩] ∧ v.toNat ≤ 65535 ∧
      (v.toNat = s.cfg.BASE.toNat ∨ (s.trim.trimNeg = true ∧ v.toNat + 1 = s.cfg.BASE.toNat) ∨
        (s.trim.trimNeg = false ∧ v.toNat = s.cfg.BASE.toNat + 1))

/-- R90 (TICK), R123: the two commands of one tick give the same results and the same elements in either order. -/
def Obligations.TickCommandsCommute : Prop :=
  ∀ s : State, s.cfg.legal = true →
    ∃ t u v, runCommands [⟨.tick, 0x01000000#32⟩, ⟨.tick, 0x02000000#32⟩] s = .next t ∧
      runCommands [⟨.tick, 0x02000000#32⟩, ⟨.tick, 0x01000000#32⟩] s = .next u ∧ t.SameElements u ∧
      t.results = s.results ++ [⟨.tick, 0#32⟩, ⟨.tick, v⟩] ∧ u.results = s.results ++ [⟨.tick, v⟩, ⟨.tick, 0#32⟩]

/-! ## SoftwareClock -/

/-- R141. -/
def Obligations.ClockAdvanceIsExact : Prop :=
  (∀ n : Half, decode (0x30000000#32 ||| n.setWidth 32) = .ok (.clockAdvance n)) ∧
  ReservedBitsRefused 0x30#8 0x00FF0000#32 ∧ (∀ n, WrongAgentRefused .tick (.clockAdvance n)) ∧
  ∀ (s : State) (n : Half), s.issuer = .consumer →
    let total := s.clock.milliseconds.toNat + n.toNat
    exec (.clockAdvance n) s = .next { s with
      clock := ⟨BitVec.ofNat 16 (total % 60000), BitVec.ofNat 16 ((s.clock.minutes.toNat + total / 60000) % 2 ^ 16)⟩
      results := s.results ++ [⟨.consumer, 0#32⟩] }

/-- R142: the advance is the source's loop, the millisecond field stays below 60000 in every step, and the pair counts
exactly `n` modulo `60000 * 2^16`. A total is below 180000, so the loop subtracts at most twice. -/
def Obligations.ClockAdvanceIsTheRolloverLoop : Prop :=
  (∀ (s : State) (n : Half), s.issuer = .consumer → s.clock.InRange →
    ∃ t, exec (.clockAdvance n) s = .next t ∧
      (t.clock.milliseconds.toNat, t.clock.minutes.toNat) =
        rolloverLoop 3 (s.clock.milliseconds.toNat + n.toNat, s.clock.minutes.toNat) ∧
      60000 * t.clock.minutes.toNat + t.clock.milliseconds.toNat =
        (60000 * s.clock.minutes.toNat + s.clock.milliseconds.toNat + n.toNat) % (60000 * 2 ^ 16)) ∧
  (∀ s t : State, s.clock.InRange → step s = .next t → t.clock.milliseconds.toNat < 60000)

/-- R145: read, retire and advance in one command. -/
def Obligations.ClockUpdateConsumesThePendingTicks : Prop :=
  decode 0x31000000#32 = .ok .clockUpdate ∧ ReservedBitsRefused 0x31#8 0x00FFFFFF#32 ∧
  WrongAgentRefused .tick .clockUpdate ∧
  ∀ s : State, s.issuer = .consumer → s.cfg.legal = true →
    ∃ p : Nat, (p : Int) = ((s.acc.eventCount.toNat : Int) - s.acc.retiredCount.toNat) % 2 ^ s.cfg.W ∧
      (let total := s.clock.milliseconds.toNat + p
      let retired : Half := BitVec.ofNat 16 ((s.acc.retiredCount.toNat + p) % 2 ^ s.cfg.W)
      exec .clockUpdate s = .next { s with
        acc := { s.acc with retiredCount := retired }
        clock := ⟨BitVec.ofNat 16 (total % 60000), BitVec.ofNat 16 ((s.clock.minutes.toNat + total / 60000) % 2 ^ 16)⟩
        results := s.results ++ [⟨.consumer, BitVec.ofNat 32 p⟩] } ∧
      (s.acc.InRange s.cfg.W → retired = s.acc.eventCount))

/-- R150. -/
def Obligations.StartIntervalArmsTheDeadline : Prop :=
  (∀ n : Half, decode (0x32000000#32 ||| n.setWidth 32) = .ok (.startInterval n)) ∧
  ReservedBitsRefused 0x32#8 0x00FF0000#32 ∧ (∀ n, WrongAgentRefused .tick (.startInterval n)) ∧
  ∀ s : State, s.issuer = .consumer → s.cfg.legal = true →
    RefusedWith .zeroInterval s (exec (.startInterval 0#16) s) ∧
    ∀ n : Half, n ≠ 0#16 →
      ∃ d : Half, d.toNat = (s.clock.milliseconds.toNat + n.toNat) % s.cfg.R.toNat ∧
        exec (.startInterval n) s = .next { s with
          alarm := ⟨n, d⟩, results := s.results ++ [⟨.consumer, 0#32⟩] }

/-- R155, R157: the result is 1 exactly when `(milliseconds - nextIntervalDeadline) mod R` is below the length. -/
def Obligations.IntervalElapsedComparesTheResidue : Prop :=
  decode 0x33000000#32 = .ok .intervalElapsed ∧ ReservedBitsRefused 0x33#8 0x00FFFFFF#32 ∧
  WrongAgentRefused .tick .intervalElapsed ∧
  ∀ s : State, s.issuer = .consumer → s.cfg.legal = true →
    let since : Int := ((s.clock.milliseconds.toNat : Int) - s.alarm.nextIntervalDeadline.toNat) % s.cfg.R.toNat
    (s.alarm.intervalLength = 0#16 → RefusedWith .noInterval s (exec .intervalElapsed s)) ∧
    (s.alarm.intervalLength ≠ 0#16 → exec .intervalElapsed s = .next { s with
      results := s.results ++ [⟨.consumer, if since < s.alarm.intervalLength.toNat then 1#32 else 0#32⟩] })

/-- R155, R162: a consume that succeeds moves the deadline by one length modulo `R`; one that does not changes nothing. -/
def Obligations.ConsumeIntervalMovesTheDeadline : Prop :=
  decode 0x34000000#32 = .ok .consumeInterval ∧ ReservedBitsRefused 0x34#8 0x00FFFFFF#32 ∧
  WrongAgentRefused .tick .consumeInterval ∧
  ∀ s : State, s.issuer = .consumer → s.cfg.legal = true →
    let since : Int := ((s.clock.milliseconds.toNat : Int) - s.alarm.nextIntervalDeadline.toNat) % s.cfg.R.toNat
    (s.alarm.intervalLength = 0#16 → RefusedWith .noInterval s (exec .consumeInterval s)) ∧
    (s.alarm.intervalLength ≠ 0#16 → since < s.alarm.intervalLength.toNat →
      ∃ d : Half, d.toNat = (s.alarm.nextIntervalDeadline.toNat + s.alarm.intervalLength.toNat) % s.cfg.R.toNat ∧
        exec .consumeInterval s = .next { s with
          alarm := { s.alarm with nextIntervalDeadline := d }, results := s.results ++ [⟨.consumer, 1#32⟩] }) ∧
    (s.alarm.intervalLength ≠ 0#16 → ¬ since < s.alarm.intervalLength.toNat →
      exec .consumeInterval s = .next { s with results := s.results ++ [⟨.consumer, 0#32⟩] })

/-- R160: an advance by `n` moves the time since the deadline by `n`, less 60000 for each minute rollover, modulo `R`;
with `R = 60000` that is exactly `n` modulo 60000. -/
def Obligations.TimeSinceDeadlineFollowsTheClock : Prop :=
  ∀ (s : State) (n : Half), s.issuer = .consumer → s.cfg.legal = true → s.clock.InRange →
    ∃ t, exec (.clockAdvance n) s = .next t ∧
      let d := s.alarm.sinceDeadline s.cfg.R.toNat s.clock.milliseconds
      let d' := t.alarm.sinceDeadline t.cfg.R.toNat t.clock.milliseconds
      (d' : Int) = ((d : Int) + n.toNat - 60000 * ((s.clock.milliseconds.toNat + n.toNat) / 60000 : Nat)) %
        (s.cfg.R.toNat : Int) ∧
      (s.cfg.R = 60000#16 → d' = (d + n.toNat) % 60000)

/-- R165: what a successful consume does to the residue, and why the next one at the same `milliseconds` returns 0 when
`2*intervalLength <= R`; otherwise it can return 1 again. -/
def Obligations.ConsumeIsIdempotentWithinItsWindow : Prop :=
  (∀ s : State, s.Inv → s.issuer = .consumer → 0 < s.alarm.intervalLength.toNat →
    s.alarm.intervalLength.toNat < s.cfg.R.toNat →
    let d := s.alarm.sinceDeadline s.cfg.R.toNat s.clock.milliseconds
    d < s.alarm.intervalLength.toNat →
      ∃ t, exec .consumeInterval s = .next t ∧ t.results = s.results ++ [⟨.consumer, 1#32⟩] ∧
        (let d' := t.alarm.sinceDeadline t.cfg.R.toNat t.clock.milliseconds
        (d' : Int) = ((d : Int) - s.alarm.intervalLength.toNat) % (s.cfg.R.toNat : Int) ∧
        s.cfg.R.toNat - s.alarm.intervalLength.toNat ≤ d') ∧
        (2 * s.alarm.intervalLength.toNat ≤ s.cfg.R.toNat →
          exec .consumeInterval t = .next { t with results := t.results ++ [⟨.consumer, 0#32⟩] })) ∧
  (∃ s t u : State, s.Inv ∧ s.alarm.intervalLength.toNat < s.cfg.R.toNat ∧
    s.cfg.R.toNat < 2 * s.alarm.intervalLength.toNat ∧ exec .consumeInterval s = .next t ∧
    exec .consumeInterval t = .next u ∧ t.clock = s.clock ∧
    u.results = s.results ++ [⟨.consumer, 1#32⟩, ⟨.consumer, 1#32⟩])

/-- R166: once the window is missed, no advance of the clock moves the deadline or consumes the interval: it reads as not
elapsed and cannot be consumed until the residue is below the length again. With `R = 60000` the residue goes up by what
the clock is advanced, modulo 60000. -/
def Obligations.MissedWindowStaysMissedUntilTheClockComesRound : Prop :=
  ∀ (s : State) (ns : List Half), s.Inv → s.issuer = .consumer → 0 < s.alarm.intervalLength.toNat →
    s.alarm.intervalLength.toNat < s.cfg.R.toNat →
    let d := s.alarm.sinceDeadline s.cfg.R.toNat s.clock.milliseconds
    s.alarm.intervalLength.toNat ≤ d →
      ∃ t, runCommands (ns.map fun n => (Instr.clockAdvance n).issued) s = .next t ∧ t.alarm = s.alarm ∧
        (let d' := t.alarm.sinceDeadline t.cfg.R.toNat t.clock.milliseconds
        (s.alarm.intervalLength.toNat ≤ d' →
          exec .intervalElapsed t = .next { t with results := t.results ++ [⟨.consumer, 0#32⟩] } ∧
          exec .consumeInterval t = .next { t with results := t.results ++ [⟨.consumer, 0#32⟩] }) ∧
        (d' < s.alarm.intervalLength.toNat →
          exec .intervalElapsed t = .next { t with results := t.results ++ [⟨.consumer, 1#32⟩] }) ∧
        (s.cfg.R = 60000#16 → d' = (d + (ns.map BitVec.toNat).sum) % 60000))

/-- R167: an interval of at least `R` is always elapsed, and a consume moves its deadline by the length modulo `R`. -/
def Obligations.IntervalOfAtLeastTheBoundIsAlwaysElapsed : Prop :=
  ∀ s : State, s.issuer = .consumer → s.cfg.legal = true → s.cfg.R.toNat ≤ s.alarm.intervalLength.toNat →
    exec .intervalElapsed s = .next { s with results := s.results ++ [⟨.consumer, 1#32⟩] } ∧
    ∃ d : Half, d.toNat = (s.alarm.nextIntervalDeadline.toNat + s.alarm.intervalLength.toNat % s.cfg.R.toNat) %
        s.cfg.R.toNat ∧
      exec .consumeInterval s = .next { s with
        alarm := { s.alarm with nextIntervalDeadline := d }, results := s.results ++ [⟨.consumer, 1#32⟩] }

/-- R90 (POLL), R145: PENDING_TICKS, RETIRE `p` and CLOCK_ADVANCE `p`, with `j` and `k` ticks recorded between them, end
where one CLOCK_UPDATE at the start ends, except that those ticks are counted and stay pending. -/
def Obligations.PollEndsWhereClockUpdateDoes : Prop :=
  ∀ (s : State) (j k : Nat), s.Inv →
    let p := s.acc.pending s.cfg.W
    let tick : Command := ⟨.tick, 0x01000000#32⟩
    ∃ t u, runCommands ([⟨.consumer, 0x10000000#32⟩] ++ List.replicate j tick ++
        [⟨.consumer, 0x11000000#32 ||| BitVec.ofNat 32 p⟩] ++ List.replicate k tick ++
        [⟨.consumer, 0x30000000#32 ||| BitVec.ofNat 32 p⟩]) s = .next t ∧
      runCommands [⟨.consumer, 0x31000000#32⟩] s = .next u ∧
      (s.results ++ [⟨.consumer, BitVec.ofNat 32 p⟩]) <+: t.results ∧
      t.acc.retiredCount = u.acc.retiredCount ∧
      t.acc.eventCount.toNat = (u.acc.eventCount.toNat + (j + k)) % 2 ^ s.cfg.W ∧
      t.acc.pending s.cfg.W = (j + k) % 2 ^ s.cfg.W ∧ u.acc.pending s.cfg.W = 0 ∧
      t.trim = u.trim ∧ t.clock = u.clock ∧ t.alarm = u.alarm ∧ t.button = u.button ∧ t.quad = u.quad

/-- R252: with RETIRE_ALL in place of RETIRE `p`, the `j` ticks recorded after the read are retired without reaching the
clock: nothing stays pending and the clock stands where CLOCK_UPDATE before those ticks would leave it. -/
def Obligations.RetireAllAfterAReadLosesTheLateTicks : Prop :=
  ∀ (s : State) (j : Nat), s.Inv →
    let p := s.acc.pending s.cfg.W
    ∃ t u, runCommands ([⟨.consumer, 0x10000000#32⟩] ++ List.replicate j ⟨.tick, 0x01000000#32⟩ ++
        [⟨.consumer, 0x12000000#32⟩, ⟨.consumer, 0x30000000#32 ||| BitVec.ofNat 32 p⟩]) s = .next t ∧
      runCommands [⟨.consumer, 0x31000000#32⟩] s = .next u ∧ t.clock = u.clock ∧
      t.acc.eventCount.toNat = (s.acc.eventCount.toNat + j) % 2 ^ s.cfg.W ∧ t.acc.pending s.cfg.W = 0

/-! ## QuadratureDebouncer -/

/-- R171: the word, the refusals and the frame; the result is the button sub-machine's events and the quadrature
sub-machine's, and each sub-machine's part is the same whatever the other holds and samples. -/
def Obligations.QdUpdateComposesTwoIndependentSubmachines : Prop :=
  (∀ (b : Bool) (q : BitVec 2),
    decode (0x40000000#32 ||| (BitVec.ofBool b).setWidth 32 <<< 2 ||| q.setWidth 32) = .ok (.qdUpdate b q)) ∧
  ReservedBitsRefused 0x40#8 0x00FFFFF8#32 ∧ (∀ b q, WrongAgentRefused .tick (.qdUpdate b q)) ∧
  ∃ (buttonStep : Byte → Button → Bool → Button × Word) (quadStep : RotMode → Quad → BitVec 2 → Quad × Word),
    ∀ (s : State) (b : Bool) (q : BitVec 2), s.issuer = .consumer →
      exec (.qdUpdate b q) s = .next { s with
        button := (buttonStep s.cfg.UI_DIV s.button b).1
        quad := (quadStep s.cfg.ROT_MODE s.quad q).1
        results := s.results ++
          [⟨.consumer, (buttonStep s.cfg.UI_DIV s.button b).2 ||| (quadStep s.cfg.ROT_MODE s.quad q).2⟩] }

/-- R172, R173, R174, R175, R176: the button sub-machine. `m` is the result; bits 2 to 6 are CHANGE_UNVALIDATED, PRESS,
RELEASE, HOLD_TICK, HOLD_SATURATED (R44). The divider is below `UI_DIV` (R40, part of State.Inv). -/
def Obligations.QdUpdateDebouncesTheButton : Prop :=
  ∀ (s : State) (b : Bool) (q : BitVec 2), s.issuer = .consumer → s.button.InRange s.cfg.UI_DIV.toNat →
    ∃ (t : State) (m : Word), exec (.qdUpdate b q) s = .next t ∧ t.results = s.results ++ [⟨.consumer, m⟩] ∧
      t.acc = s.acc ∧ t.trim = s.trim ∧ t.clock = s.clock ∧ t.alarm = s.alarm ∧ t.refusal = s.refusal ∧
      t.button.btnShift.toNat = (2 * s.button.btnShift.toNat + b.toNat) % 256 ∧
      (m.getLsbD 2 = true ↔ t.button.btnShift ≠ 0x00#8 ∧ t.button.btnShift ≠ 0xFF#8) ∧
      (let press := s.button.btnState = .released ∧ t.button.btnShift = 0xFF#8
      let release := s.button.btnState = .pressed ∧ t.button.btnShift = 0x00#8
      (m.getLsbD 3 = true ↔ press) ∧ (m.getLsbD 4 = true ↔ release) ∧
      (press → t.button.btnState = .pressed) ∧ (release → t.button.btnState = .released) ∧
      (press ∨ release → t.button.holdCount = 0#8 ∧ t.button.holdDiv = 0#8 ∧ m.getLsbD 5 = false ∧
        m.getLsbD 6 = false) ∧
      (¬ press → ¬ release → t.button.btnState = s.button.btnState ∧
        (s.button.holdDiv.toNat + 1 = s.cfg.UI_DIV.toNat → t.button.holdDiv = 0#8 ∧
          (s.button.holdCount.toNat < 255 →
            t.button.holdCount.toNat = s.button.holdCount.toNat + 1 ∧ m.getLsbD 5 = true ∧ m.getLsbD 6 = false) ∧
          (¬ s.button.holdCount.toNat < 255 →
            t.button.holdCount = s.button.holdCount ∧ m.getLsbD 5 = false ∧ m.getLsbD 6 = true)) ∧
        (s.button.holdDiv.toNat + 1 ≠ s.cfg.UI_DIV.toNat →
          t.button.holdDiv.toNat = s.button.holdDiv.toNat + 1 ∧ t.button.holdCount = s.button.holdCount ∧
          m.getLsbD 5 = false ∧ m.getLsbD 6 = false)))

/-- R180, R181, R182: the quadrature sub-machine. The two lists are the windows R181 decodes as CLOCKWISE and as
COUNTERCLOCKWISE; bits 0 and 1 of the result report them, in both modes. -/
def Obligations.QdUpdateDecodesTheRotation : Prop :=
  ∀ (s : State) (b : Bool) (q : BitVec 2), s.issuer = .consumer →
    ∃ (t : State) (m : Word), exec (.qdUpdate b q) s = .next t ∧ t.results = s.results ++ [⟨.consumer, m⟩] ∧
      t.acc = s.acc ∧ t.trim = s.trim ∧ t.clock = s.clock ∧ t.alarm = s.alarm ∧ t.refusal = s.refusal ∧
      t.quad.quadNyb.toNat = 4 * (s.quad.quadNyb.toNat % 4) + q.toNat ∧
      (let cw := t.quad.quadNyb ∈ [0b0001#4, 0b0111#4, 0b1000#4, 0b1110#4]
      let ccw := t.quad.quadNyb ∈ [0b0010#4, 0b0100#4, 0b1011#4, 0b1101#4]
      let old := s.quad.rotationCount.toInt
      let new := t.quad.rotationCount.toInt
      (m.getLsbD 0 = true ↔ cw) ∧ (m.getLsbD 1 = true ↔ ccw) ∧ (¬ cw → ¬ ccw → new = old) ∧
      (s.cfg.ROT_MODE = .wrap →
        (cw → new = if old = 127 then -128 else old + 1) ∧ (ccw → new = if old = -128 then 127 else old - 1)) ∧
      (s.cfg.ROT_MODE = .saturate →
        (cw → new = if old = 127 then 127 else old + 1) ∧ (ccw → new = if old = -128 then -128 else old - 1)))

/-- R177: from a cleared hold count and divider, `u` updates in which no PRESS and no RELEASE is reported leave the
quotient and the remainder of `u` by `UI_DIV`, and report HOLD_TICK and HOLD_SATURATED that often. -/
def Obligations.HoldCountIsTheQuotientOfTheUpdates : Prop :=
  ∀ (s : State) (samples : List (Bool × BitVec 2)), s.cfg.legal = true → s.button.holdCount = 0#8 →
    s.button.holdDiv = 0#8 →
    let u := samples.length
    let d := s.cfg.UI_DIV.toNat
    ∃ t new, runCommands (sampleCommands samples) s = .next t ∧ t.results = s.results ++ new ∧
      ((∀ r ∈ new, r.value.getLsbD 3 = false ∧ r.value.getLsbD 4 = false) →
        t.button.holdCount.toNat = min 255 (u / d) ∧ t.button.holdDiv.toNat = u % d ∧
        new.countP (fun r => r.value.getLsbD 5) = min 255 (u / d) ∧
        new.countP (fun r => r.value.getLsbD 6) = u / d - 255)

/-- R178: from the released state with an all-0 history, samples with no 8 consecutive 1s never report PRESS or RELEASE;
steady 1s report PRESS exactly once, on the 8th; alternating samples report CHANGE_UNVALIDATED on every update. -/
def Obligations.DebounceNeedsEightEqualSamples : Prop :=
  ∀ (s : State) (samples : List (Bool × BitVec 2)), s.cfg.legal = true → s.button.btnState = .released →
    s.button.btnShift = 0x00#8 →
    ∃ t new, runCommands (sampleCommands samples) s = .next t ∧ t.results = s.results ++ new ∧
      new.length = samples.length ∧
      ((∀ w, w <:+: samples → w.length = 8 → ∃ x ∈ w, x.1 = false) →
        ∀ r ∈ new, r.value.getLsbD 3 = false ∧ r.value.getLsbD 4 = false) ∧
      ((∀ x ∈ samples, x.1 = true) →
        new.map (fun r => r.value.getLsbD 3) = (List.range samples.length).map (fun j => j == 7)) ∧
      (samples.map Prod.fst = (List.range samples.length).map (fun j => j % 2 == 0) →
        ∀ r ∈ new, r.value.getLsbD 2 = true)

/-- R44, R183: which events can coincide, and that the allowed combinations all occur. -/
def Obligations.CoincidentEventsAreLimited : Prop :=
  (∀ (s : State) (b : Bool) (q : BitVec 2), s.issuer = .consumer →
    ∃ (t : State) (m : Word), exec (.qdUpdate b q) s = .next t ∧ t.results = s.results ++ [⟨.consumer, m⟩] ∧
      m.toNat < 128 ∧
      ¬ (m.getLsbD 0 = true ∧ m.getLsbD 1 = true) ∧
      ¬ (m.getLsbD 2 = true ∧ m.getLsbD 3 = true) ∧ ¬ (m.getLsbD 2 = true ∧ m.getLsbD 4 = true) ∧
      ¬ (m.getLsbD 3 = true ∧ m.getLsbD 4 = true) ∧ ¬ (m.getLsbD 5 = true ∧ m.getLsbD 6 = true) ∧
      (m.getLsbD 3 = true ∨ m.getLsbD 4 = true → m.getLsbD 5 = false ∧ m.getLsbD 6 = false)) ∧
  (∀ rotation ∈ [0x00#32, 0x01#32, 0x02#32],
    ∀ button ∈ [0x00#32, 0x04#32, 0x08#32, 0x10#32, 0x20#32, 0x40#32, 0x24#32, 0x44#32],
    ∃ (s : State) (b : Bool) (q : BitVec 2) (t : State), s.Inv ∧ s.button.Settled ∧ s.issuer = .consumer ∧
      exec (.qdUpdate b q) s = .next t ∧ t.results = s.results ++ [⟨.consumer, rotation ||| button⟩])

/-- R43, R173: the history is never saturated to the level opposite to the debounced state, and a step that flips the
state leaves the history saturated to the new level; the rotation count moves only on one of the 8 valid patterns. -/
def Obligations.ButtonFlipsOnlyOnASaturatedHistory : Prop :=
  ∀ s t : State, step s = .next t →
    (s.button.Settled → t.button.Settled) ∧
    (t.button.btnState ≠ s.button.btnState →
      (t.button.btnState = .pressed ∧ t.button.btnShift = 0xFF#8) ∨
      (t.button.btnState = .released ∧ t.button.btnShift = 0x00#8)) ∧
    (t.quad.rotationCount ≠ s.quad.rotationCount →
      t.quad.quadNyb ∈ [0b0111#4, 0b1000#4, 0b1110#4, 0b0001#4, 0b1011#4, 0b0100#4, 0b1101#4, 0b0010#4])

/-- R242, R257: right after a reset reloads are `BASE`, nothing is pending, and the first quadrature sample is decoded
against 0b00. -/
def Obligations.FirstCommandsAfterReset : Prop :=
  ∀ c : Config, c.legal = true →
    (∃ t, runCommands [⟨.tick, 0x02000000#32⟩] (State.resetWith c) = .next t ∧
      t.results = [⟨.tick, c.BASE.setWidth 32⟩]) ∧
    (∃ t, runCommands [⟨.consumer, 0x10000000#32⟩] (State.resetWith c) = .next t ∧
      t.results = [⟨.consumer, 0#32⟩]) ∧
    ∀ (b : Bool) (q : BitVec 2), ∃ t, runCommands [(Instr.qdUpdate b q).issued] (State.resetWith c) = .next t ∧
      t.button.btnState = .released ∧
      t.quad.rotationCount.toInt = if q = 0b01#2 then 1 else if q = 0b10#2 then -1 else 0

/-! ## Register access -/

/-- R61, R200: each index returns its register, zero-extended, with no side effect; the rest are refused. -/
def Obligations.ReadRegReturnsTheIndexedView : Prop :=
  (∀ i : Byte, decode (0x50000000#32 ||| i.setWidth 32) = .ok (.readReg i)) ∧
  ReservedBitsRefused 0x50#8 0x00FFFF00#32 ∧ (∀ i, WrongAgentRefused .tick (.readReg i)) ∧
  ∀ s : State, s.issuer = .consumer →
    (∀ i v, (i, v) ∈
        [(0x00#8, s.acc.eventCount.toNat), (0x01#8, s.acc.retiredCount.toNat), (0x02#8, s.cfg.BASE.toNat),
         (0x03#8, 128 * s.trim.trimNeg.toNat + s.trim.trimMag.toNat),
         (0x04#8, 128 * s.trim.trimActive.toNat + s.trim.trimIdx.toNat),
         (0x05#8, s.clock.milliseconds.toNat), (0x06#8, s.clock.minutes.toNat),
         (0x07#8, s.alarm.intervalLength.toNat), (0x08#8, s.alarm.nextIntervalDeadline.toNat),
         (0x09#8, s.button.btnShift.toNat), (0x0A#8, if s.button.btnState = .pressed then 1 else 0),
         (0x0B#8, s.button.holdCount.toNat), (0x0C#8, s.button.holdDiv.toNat), (0x0D#8, s.quad.quadNyb.toNat),
         (0x0E#8, (s.quad.rotationCount.toInt % 256).toNat)] →
      exec (.readReg i) s = .next { s with results := s.results ++ [⟨.consumer, BitVec.ofNat 32 v⟩] }) ∧
    ∀ i : Byte, 0x0E < i.toNat → RefusedWith .reservedIndex s (exec (.readReg i) s)
end

