-- ==== Sys2Proof/Laws/Decode.lean ====
section
/-! SUPPORT. The opcode map and the word's fields: what the decoder finds in a word the encoder built, and what a word
that decodes looks like. -/

namespace Sys2Proof

/-- The row of an opcode byte, and no other, is found. -/
@[simp] theorem Opcode.ofByte_toByte (o : Opcode) : Opcode.ofByte o.toByte = some o := by
  cases o <;> decide

theorem Opcode.toByte_of_ofByte {b : Byte} {o : Opcode} (h : Opcode.ofByte b = some o) : o.toByte = b := by
  have := List.find?_some h
  simpa using this

/-- A byte that is no row's opcode is not found. -/
theorem Opcode.ofByte_eq_none {b : Byte} : Opcode.ofByte b = none ↔ ∀ o : Opcode, o.toByte ≠ b := by
  constructor
  · intro h o ho
    rw [← ho, Opcode.ofByte_toByte] at h
    cases h
  · intro h
    cases hb : Opcode.ofByte b with
    | none => rfl
    | some o => exact absurd (Opcode.toByte_of_ofByte hb) (h o)

@[simp] theorem opcode_withOperands (o : Opcode) (w : Word) : (o.withOperands w).opcode = o := by
  cases o <;> rfl

/-! ## Fields of a word -/

/-- The top byte of a word put together from an opcode, the zero byte and an operand field. -/
theorem extract_opcode (a m : Byte) (n : Half) : BitVec.extractLsb' 24 8 (a ++ m ++ n : BitVec (8 + 8 + 16)) = a := by
  apply BitVec.eq_of_getLsbD_eq
  intro j hj
  have h1 : ¬ (24 + j < 16) := by omega
  have h2 : ¬ (24 + j - 16 < 8) := by omega
  have h3 : 24 + j - 16 - 8 = j := by omega
  rw [BitVec.getLsbD_extractLsb', BitVec.getLsbD_append, BitVec.getLsbD_append]
  simp only [hj, h1, h2, h3, if_false, decide_true, Bool.true_and]

/-- Its operand field. -/
theorem extract_operand (a m : Byte) (n : Half) : BitVec.extractLsb' 0 16 (a ++ m ++ n : BitVec (8 + 8 + 16)) = n := by
  apply BitVec.eq_of_getLsbD_eq
  intro j hj
  rw [BitVec.getLsbD_extractLsb', BitVec.getLsbD_append, BitVec.getLsbD_append]
  simp only [Nat.zero_add, hj, if_true, decide_true, Bool.true_and]

/-- A word is its opcode byte, its byte 2 and its operand field (R80). -/
theorem word_split (w : Word) : (opcodeField w ++ w.extractLsb' 16 8 ++ u16Field w : BitVec (8 + 8 + 16)) = w := by
  apply BitVec.eq_of_getLsbD_eq
  intro j hj
  rw [BitVec.getLsbD_append, BitVec.getLsbD_append]
  unfold opcodeField u16Field
  by_cases h1 : j < 16
  · simp [h1]
  · by_cases h2 : j - 16 < 8
    · have : 16 + (j - 16) = j := by omega
      simp [h1, h2, this]
    · have h3 : 24 + (j - 16 - 8) = j := by omega
      have h4 : j - 16 - 8 < 8 := by omega
      simp [h1, h2, h3, h4]

/-- The two ways the spec writes a word: the fields side by side, and an operand or-ed into the opcode's word. -/
theorem append_eq_or (a : Byte) (n : Half) :
    (a ++ 0#8 ++ n : BitVec (8 + 8 + 16)) = a.setWidth 32 <<< 24 ||| n.setWidth 32 := by
  apply BitVec.eq_of_getLsbD_eq
  intro j hj
  rw [BitVec.getLsbD_append, BitVec.getLsbD_append, BitVec.getLsbD_or, BitVec.getLsbD_shiftLeft,
    BitVec.getLsbD_setWidth, BitVec.getLsbD_setWidth]
  by_cases h1 : j < 16
  · have h2 : j < 24 := by omega
    have h3 : j < 32 := by omega
    simp [h1, h2, h3]
  · have hn : n.getLsbD j = false := BitVec.getLsbD_of_ge n j (by omega)
    by_cases h2 : j < 24
    · have h3 : j - 16 < 8 := by omega
      simp [h1, h2, h3, hn]
    · have h3 : ¬ j - 16 < 8 := by omega
      have h4 : j - 16 - 8 = j - 24 := by omega
      have h5 : j - 24 < 32 := by omega
      simp [h1, h2, h3, h4, hn, hj, h5]

@[simp] theorem opcodeField_encode (i : Instr) : opcodeField (encode i) = i.opcode.toByte := extract_opcode _ _ _

@[simp] theorem u16Field_encode (i : Instr) : u16Field (encode i) = i.operandField := extract_operand _ _ _

/-- The word of a command as an operand field or-ed into its opcode's word. -/
theorem encode_eq_or (i : Instr) : encode i = i.opcode.toByte.setWidth 32 <<< 24 ||| i.operandField.setWidth 32 :=
  append_eq_or _ _

/-! ## The words of the commands with an operand -/

theorem encode_retire (n : Half) : encode (.retire n) = 0x11000000#32 ||| n.setWidth 32 :=
  (encode_eq_or _).trans
    (congrArg (· ||| n.setWidth 32) (by decide : (0x11#8 : Byte).setWidth 32 <<< 24 = 0x11000000#32))

theorem encode_setTrim : ∀ k : Byte, encode (.setTrim k) = 0x20000000#32 ||| k.setWidth 32 := by decide

theorem encode_clockAdvance (n : Half) : encode (.clockAdvance n) = 0x30000000#32 ||| n.setWidth 32 :=
  (encode_eq_or _).trans
    (congrArg (· ||| n.setWidth 32) (by decide : (0x30#8 : Byte).setWidth 32 <<< 24 = 0x30000000#32))

theorem encode_startInterval (n : Half) : encode (.startInterval n) = 0x32000000#32 ||| n.setWidth 32 :=
  (encode_eq_or _).trans
    (congrArg (· ||| n.setWidth 32) (by decide : (0x32#8 : Byte).setWidth 32 <<< 24 = 0x32000000#32))

theorem encode_readReg : ∀ i : Byte, encode (.readReg i) = 0x50000000#32 ||| i.setWidth 32 := by decide

theorem encode_qdUpdate : ∀ (b : Bool) (q : BitVec 2),
    encode (.qdUpdate b q) = 0x40000000#32 ||| (BitVec.ofBool b).setWidth 32 <<< 2 ||| q.setWidth 32 := by decide

/-! ## Inversion of the decoder -/

/-- A word decodes exactly to its row's command, when its reserved bits are all 0. -/
theorem decode_ok_iff {w : Word} {i : Instr} :
    decode w = .ok i ↔ ∃ o, Opcode.ofByte (opcodeField w) = some o ∧ w &&& o.format.reserved = 0#32 ∧
      i = o.withOperands w := by
  unfold decode
  cases Opcode.ofByte (opcodeField w) with
  | none => simp
  | some o =>
    by_cases h : w &&& o.format.reserved = 0#32
    · simp [h, eq_comm]
    · simp [h]

/-! ## Reserved bits -/

/-- `op[23:16]` is reserved in every format (R80). -/
theorem byte2_of_reserved {w : Word} {o : Opcode} (h : w &&& o.format.reserved = 0#32) : w.extractLsb' 16 8 = 0#8 := by
  have h2 : o.format.reserved.extractLsb' 16 8 = BitVec.allOnes 8 := by cases o <;> decide
  have h1 := congrArg (BitVec.extractLsb' 16 8) h
  rw [BitVec.extractLsb'_and, h2, BitVec.and_allOnes] at h1
  exact h1

/-- The operand field's reserved bits are those of the word. -/
theorem operand_of_reserved {w : Word} {f : Format} (h : w &&& f.reserved = 0#32) :
    u16Field w &&& u16Field f.reserved = 0#16 := by
  have h1 := congrArg u16Field h
  unfold u16Field at *
  rwa [BitVec.extractLsb'_and] at h1

theorem bit_of_and_eq_zero {n : Nat} {u m : BitVec n} (h : u &&& m = 0#n) (j : Nat) (hm : m.getLsbD j = true) :
    u.getLsbD j = false := by
  have := congrArg (fun x => BitVec.getLsbD x j) h
  simpa [hm] using this

/-- An S8 or IDX operand field is its low byte. -/
theorem operand_byte {u : Half} (h : u &&& 0xFF00#16 = 0#16) : (0#8 ++ u.extractLsb' 0 8 : BitVec (8+8)) = u := by
  apply BitVec.eq_of_getLsbD_eq
  intro j hj
  rw [BitVec.getLsbD_append, BitVec.getLsbD_extractLsb']
  by_cases h1 : j < 8
  · simp [h1]
  · have hm : ∀ j < 16, ¬ j < 8 → (0xFF00#16).getLsbD j = true := by decide
    simp [h1, bit_of_and_eq_zero h j (hm j hj h1)]

/-- A QD operand field is its button bit and its sample. -/
theorem operand_sample {u : Half} (h : u &&& 0xFFF8#16 = 0#16) :
    (0#13 ++ BitVec.ofBool (u.getLsbD 2) ++ u.extractLsb' 0 2 : BitVec (13+1+2)) = u := by
  apply BitVec.eq_of_getLsbD_eq
  intro j hj
  rw [BitVec.getLsbD_append, BitVec.getLsbD_append, BitVec.getLsbD_extractLsb']
  by_cases h1 : j < 2
  · simp [h1]
  · by_cases h2 : j = 2
    · subst h2; simp
    · have hm : ∀ j < 16, ¬ j < 2 → j ≠ 2 → (0xFFF8#16).getLsbD j = true := by decide
      have h3 : ¬ (j - 2 < 1) := by omega
      simp [h1, h3, bit_of_and_eq_zero h j (hm j hj h1 h2)]

theorem byteField_of_u16Field (w : Word) : (u16Field w).extractLsb' 0 8 = byteField w := by
  unfold u16Field byteField; ext j hj; simp
theorem sampleField_of_u16Field (w : Word) : (u16Field w).extractLsb' 0 2 = sampleField w := by
  unfold u16Field sampleField; ext j hj; simp
theorem buttonField_of_u16Field (w : Word) : (u16Field w).getLsbD 2 = buttonField w := by
  simp [u16Field, buttonField]

/-- The operand field of a decoded command is the word's: no bit of it is dropped. -/
theorem operandField_withOperands {w : Word} {o : Opcode} (h : w &&& o.format.reserved = 0#32) :
    (o.withOperands w).operandField = u16Field w := by
  have h := operand_of_reserved h
  have byte (h : u16Field w &&& 0xFF00#16 = 0#16) : (0#8 ++ byteField w : BitVec (8 + 8)) = u16Field w := by
    rw [← byteField_of_u16Field]; exact operand_byte h
  have none (h : u16Field w &&& 0xFFFF#16 = 0#16) : 0#16 = u16Field w := by
    rw [← h]
    exact BitVec.and_allOnes (w := 16)
  cases o with
  | retire => rfl
  | clockAdvance => rfl
  | startInterval => rfl
  | setTrim => exact byte h
  | readReg => exact byte h
  | qdUpdate =>
    rw [Opcode.withOperands, Instr.operandField, ← sampleField_of_u16Field, ← buttonField_of_u16Field]
    exact operand_sample h
  | recordTick => exact none h
  | nextReload => exact none h
  | pendingTicks => exact none h
  | retireAll => exact none h
  | clockUpdate => exact none h
  | intervalElapsed => exact none h
  | consumeInterval => exact none h

theorem and_eq_zero_of_fields {w r : Word} (h1 : opcodeField w &&& opcodeField r = 0#8)
    (h2 : w.extractLsb' 16 8 &&& r.extractLsb' 16 8 = 0#8) (h3 : u16Field w &&& u16Field r = 0#16) : w &&& r = 0#32 := by
  rw [← word_split (w &&& r)]
  unfold opcodeField u16Field at *
  rw [BitVec.extractLsb'_and, BitVec.extractLsb'_and, BitVec.extractLsb'_and, h1, h2, h3]
  decide

theorem extract_byte2 (a m : Byte) (n : Half) : BitVec.extractLsb' 16 8 (a ++ m ++ n : BitVec (8 + 8 + 16)) = m := by
  apply BitVec.eq_of_getLsbD_eq
  intro j hj
  have h1 : ¬ (16 + j < 16) := by omega
  have h2 : 16 + j - 16 = j := by omega
  rw [BitVec.getLsbD_extractLsb', BitVec.getLsbD_append, BitVec.getLsbD_append]
  simp only [hj, h1, h2, if_false, if_true, decide_true, Bool.true_and]

/-- The encoder leaves every reserved bit 0 (R81). -/
theorem reserved_encode (i : Instr) : encode i &&& i.opcode.format.reserved = 0#32 := by
  have byte : ∀ k : Byte, (0#8 ++ k : BitVec (8 + 8)) &&& 0xFF00#16 = 0#16 := by decide
  have sample : ∀ (b : Bool) (q : BitVec 2), (0#13 ++ BitVec.ofBool b ++ q : BitVec (13 + 1 + 2)) &&& 0xFFF8#16 = 0#16 := by decide
  have top : ∀ f : Format, opcodeField f.reserved = 0#8 := by intro f; cases f <;> decide
  have s8 : u16Field Format.S8.reserved = 0xFF00#16 := by decide
  have idx : u16Field Format.IDX.reserved = 0xFF00#16 := by decide
  have qd : u16Field Format.QD.reserved = 0xFFF8#16 := by decide
  have u16 : u16Field Format.U16.reserved = 0#16 := by decide
  have word (n : Half) : n &&& u16Field Format.U16.reserved = 0#16 := by rw [u16]; exact BitVec.and_zero
  apply and_eq_zero_of_fields
  · rw [top]; exact BitVec.and_zero
  · rw [show (encode i).extractLsb' 16 8 = 0#8 from extract_byte2 _ _ _]; exact BitVec.zero_and
  · rw [u16Field_encode]
    cases i with
    | setTrim k => exact (congrArg _ s8).trans (byte k)
    | readReg k => exact (congrArg _ idx).trans (byte k)
    | qdUpdate b q => exact (congrArg _ qd).trans (sample b q)
    | retire n => exact word n
    | clockAdvance n => exact word n
    | startInterval n => exact word n
    | _ => decide

end Sys2Proof
end

