-- ==== Sys2Proof/Laws/State.lean ====
section
/-! SUPPORT. What each named update of the state does to each field: one lemma a field, so that no proof unfolds a record
update. -/

namespace Sys2Proof.Machine

variable (s : State)

/-! ## `State.withAcc` -/

@[simp] theorem State.withAcc_cfg (a : Accumulator) : (s.withAcc a).cfg = s.cfg := rfl
@[simp] theorem State.withAcc_acc (a : Accumulator) : (s.withAcc a).acc = a := rfl
@[simp] theorem State.withAcc_trim (a : Accumulator) : (s.withAcc a).trim = s.trim := rfl
@[simp] theorem State.withAcc_clock (a : Accumulator) : (s.withAcc a).clock = s.clock := rfl
@[simp] theorem State.withAcc_alarm (a : Accumulator) : (s.withAcc a).alarm = s.alarm := rfl
@[simp] theorem State.withAcc_button (a : Accumulator) : (s.withAcc a).button = s.button := rfl
@[simp] theorem State.withAcc_quad (a : Accumulator) : (s.withAcc a).quad = s.quad := rfl
@[simp] theorem State.withAcc_inbox (a : Accumulator) : (s.withAcc a).inbox = s.inbox := rfl
@[simp] theorem State.withAcc_issuer (a : Accumulator) : (s.withAcc a).issuer = s.issuer := rfl
@[simp] theorem State.withAcc_results (a : Accumulator) : (s.withAcc a).results = s.results := rfl
@[simp] theorem State.withAcc_refusal (a : Accumulator) : (s.withAcc a).refusal = s.refusal := rfl

/-! ## `State.withTrim` -/

@[simp] theorem State.withTrim_cfg (x : Trim) : (s.withTrim x).cfg = s.cfg := rfl
@[simp] theorem State.withTrim_acc (x : Trim) : (s.withTrim x).acc = s.acc := rfl
@[simp] theorem State.withTrim_trim (x : Trim) : (s.withTrim x).trim = x := rfl
@[simp] theorem State.withTrim_clock (x : Trim) : (s.withTrim x).clock = s.clock := rfl
@[simp] theorem State.withTrim_alarm (x : Trim) : (s.withTrim x).alarm = s.alarm := rfl
@[simp] theorem State.withTrim_button (x : Trim) : (s.withTrim x).button = s.button := rfl
@[simp] theorem State.withTrim_quad (x : Trim) : (s.withTrim x).quad = s.quad := rfl
@[simp] theorem State.withTrim_inbox (x : Trim) : (s.withTrim x).inbox = s.inbox := rfl
@[simp] theorem State.withTrim_issuer (x : Trim) : (s.withTrim x).issuer = s.issuer := rfl
@[simp] theorem State.withTrim_results (x : Trim) : (s.withTrim x).results = s.results := rfl
@[simp] theorem State.withTrim_refusal (x : Trim) : (s.withTrim x).refusal = s.refusal := rfl

/-! ## `State.withClock` -/

@[simp] theorem State.withClock_cfg (c : Clock) : (s.withClock c).cfg = s.cfg := rfl
@[simp] theorem State.withClock_acc (c : Clock) : (s.withClock c).acc = s.acc := rfl
@[simp] theorem State.withClock_trim (c : Clock) : (s.withClock c).trim = s.trim := rfl
@[simp] theorem State.withClock_clock (c : Clock) : (s.withClock c).clock = c := rfl
@[simp] theorem State.withClock_alarm (c : Clock) : (s.withClock c).alarm = s.alarm := rfl
@[simp] theorem State.withClock_button (c : Clock) : (s.withClock c).button = s.button := rfl
@[simp] theorem State.withClock_quad (c : Clock) : (s.withClock c).quad = s.quad := rfl
@[simp] theorem State.withClock_inbox (c : Clock) : (s.withClock c).inbox = s.inbox := rfl
@[simp] theorem State.withClock_issuer (c : Clock) : (s.withClock c).issuer = s.issuer := rfl
@[simp] theorem State.withClock_results (c : Clock) : (s.withClock c).results = s.results := rfl
@[simp] theorem State.withClock_refusal (c : Clock) : (s.withClock c).refusal = s.refusal := rfl

/-! ## `State.withAlarm` -/

@[simp] theorem State.withAlarm_cfg (a : Alarm) : (s.withAlarm a).cfg = s.cfg := rfl
@[simp] theorem State.withAlarm_acc (a : Alarm) : (s.withAlarm a).acc = s.acc := rfl
@[simp] theorem State.withAlarm_trim (a : Alarm) : (s.withAlarm a).trim = s.trim := rfl
@[simp] theorem State.withAlarm_clock (a : Alarm) : (s.withAlarm a).clock = s.clock := rfl
@[simp] theorem State.withAlarm_alarm (a : Alarm) : (s.withAlarm a).alarm = a := rfl
@[simp] theorem State.withAlarm_button (a : Alarm) : (s.withAlarm a).button = s.button := rfl
@[simp] theorem State.withAlarm_quad (a : Alarm) : (s.withAlarm a).quad = s.quad := rfl
@[simp] theorem State.withAlarm_inbox (a : Alarm) : (s.withAlarm a).inbox = s.inbox := rfl
@[simp] theorem State.withAlarm_issuer (a : Alarm) : (s.withAlarm a).issuer = s.issuer := rfl
@[simp] theorem State.withAlarm_results (a : Alarm) : (s.withAlarm a).results = s.results := rfl
@[simp] theorem State.withAlarm_refusal (a : Alarm) : (s.withAlarm a).refusal = s.refusal := rfl

/-! ## `State.withButton` -/

@[simp] theorem State.withButton_cfg (b : Button) : (s.withButton b).cfg = s.cfg := rfl
@[simp] theorem State.withButton_acc (b : Button) : (s.withButton b).acc = s.acc := rfl
@[simp] theorem State.withButton_trim (b : Button) : (s.withButton b).trim = s.trim := rfl
@[simp] theorem State.withButton_clock (b : Button) : (s.withButton b).clock = s.clock := rfl
@[simp] theorem State.withButton_alarm (b : Button) : (s.withButton b).alarm = s.alarm := rfl
@[simp] theorem State.withButton_button (b : Button) : (s.withButton b).button = b := rfl
@[simp] theorem State.withButton_quad (b : Button) : (s.withButton b).quad = s.quad := rfl
@[simp] theorem State.withButton_inbox (b : Button) : (s.withButton b).inbox = s.inbox := rfl
@[simp] theorem State.withButton_issuer (b : Button) : (s.withButton b).issuer = s.issuer := rfl
@[simp] theorem State.withButton_results (b : Button) : (s.withButton b).results = s.results := rfl
@[simp] theorem State.withButton_refusal (b : Button) : (s.withButton b).refusal = s.refusal := rfl

/-! ## `State.withQuad` -/

@[simp] theorem State.withQuad_cfg (q : Quad) : (s.withQuad q).cfg = s.cfg := rfl
@[simp] theorem State.withQuad_acc (q : Quad) : (s.withQuad q).acc = s.acc := rfl
@[simp] theorem State.withQuad_trim (q : Quad) : (s.withQuad q).trim = s.trim := rfl
@[simp] theorem State.withQuad_clock (q : Quad) : (s.withQuad q).clock = s.clock := rfl
@[simp] theorem State.withQuad_alarm (q : Quad) : (s.withQuad q).alarm = s.alarm := rfl
@[simp] theorem State.withQuad_button (q : Quad) : (s.withQuad q).button = s.button := rfl
@[simp] theorem State.withQuad_quad (q : Quad) : (s.withQuad q).quad = q := rfl
@[simp] theorem State.withQuad_inbox (q : Quad) : (s.withQuad q).inbox = s.inbox := rfl
@[simp] theorem State.withQuad_issuer (q : Quad) : (s.withQuad q).issuer = s.issuer := rfl
@[simp] theorem State.withQuad_results (q : Quad) : (s.withQuad q).results = s.results := rfl
@[simp] theorem State.withQuad_refusal (q : Quad) : (s.withQuad q).refusal = s.refusal := rfl

/-! ## `State.reply` -/

@[simp] theorem State.reply_cfg (v : Word) : (s.reply v).cfg = s.cfg := rfl
@[simp] theorem State.reply_acc (v : Word) : (s.reply v).acc = s.acc := rfl
@[simp] theorem State.reply_trim (v : Word) : (s.reply v).trim = s.trim := rfl
@[simp] theorem State.reply_clock (v : Word) : (s.reply v).clock = s.clock := rfl
@[simp] theorem State.reply_alarm (v : Word) : (s.reply v).alarm = s.alarm := rfl
@[simp] theorem State.reply_button (v : Word) : (s.reply v).button = s.button := rfl
@[simp] theorem State.reply_quad (v : Word) : (s.reply v).quad = s.quad := rfl
@[simp] theorem State.reply_inbox (v : Word) : (s.reply v).inbox = s.inbox := rfl
@[simp] theorem State.reply_issuer (v : Word) : (s.reply v).issuer = s.issuer := rfl
@[simp] theorem State.reply_results (v : Word) : (s.reply v).results = s.results ++ [⟨s.issuer, v⟩] := rfl
@[simp] theorem State.reply_refusal (v : Word) : (s.reply v).refusal = s.refusal := rfl

/-! ## `State.refuse` -/

@[simp] theorem State.refuse_cfg (r : RefusalReason) : (s.refuse r).cfg = s.cfg := rfl
@[simp] theorem State.refuse_acc (r : RefusalReason) : (s.refuse r).acc = s.acc := rfl
@[simp] theorem State.refuse_trim (r : RefusalReason) : (s.refuse r).trim = s.trim := rfl
@[simp] theorem State.refuse_clock (r : RefusalReason) : (s.refuse r).clock = s.clock := rfl
@[simp] theorem State.refuse_alarm (r : RefusalReason) : (s.refuse r).alarm = s.alarm := rfl
@[simp] theorem State.refuse_button (r : RefusalReason) : (s.refuse r).button = s.button := rfl
@[simp] theorem State.refuse_quad (r : RefusalReason) : (s.refuse r).quad = s.quad := rfl
@[simp] theorem State.refuse_inbox (r : RefusalReason) : (s.refuse r).inbox = s.inbox := rfl
@[simp] theorem State.refuse_issuer (r : RefusalReason) : (s.refuse r).issuer = s.issuer := rfl
@[simp] theorem State.refuse_results (r : RefusalReason) : (s.refuse r).results = s.results := rfl
@[simp] theorem State.refuse_refusal (r : RefusalReason) : (s.refuse r).refusal = some r := rfl

/-! ## `State.accept` -/

@[simp] theorem State.accept_cfg (c : Command) (rest : List Command) : (s.accept c rest).cfg = s.cfg := rfl
@[simp] theorem State.accept_acc (c : Command) (rest : List Command) : (s.accept c rest).acc = s.acc := rfl
@[simp] theorem State.accept_trim (c : Command) (rest : List Command) : (s.accept c rest).trim = s.trim := rfl
@[simp] theorem State.accept_clock (c : Command) (rest : List Command) : (s.accept c rest).clock = s.clock := rfl
@[simp] theorem State.accept_alarm (c : Command) (rest : List Command) : (s.accept c rest).alarm = s.alarm := rfl
@[simp] theorem State.accept_button (c : Command) (rest : List Command) : (s.accept c rest).button = s.button := rfl
@[simp] theorem State.accept_quad (c : Command) (rest : List Command) : (s.accept c rest).quad = s.quad := rfl
@[simp] theorem State.accept_inbox (c : Command) (rest : List Command) : (s.accept c rest).inbox = rest := rfl
@[simp] theorem State.accept_issuer (c : Command) (rest : List Command) : (s.accept c rest).issuer = c.agent := rfl
@[simp] theorem State.accept_results (c : Command) (rest : List Command) : (s.accept c rest).results = s.results := rfl
@[simp] theorem State.accept_refusal (c : Command) (rest : List Command) : (s.accept c rest).refusal = s.refusal := rfl

/-! ## `State.deliver` -/

@[simp] theorem State.deliver_cfg (c : Command) : (s.deliver c).cfg = s.cfg := rfl
@[simp] theorem State.deliver_acc (c : Command) : (s.deliver c).acc = s.acc := rfl
@[simp] theorem State.deliver_trim (c : Command) : (s.deliver c).trim = s.trim := rfl
@[simp] theorem State.deliver_clock (c : Command) : (s.deliver c).clock = s.clock := rfl
@[simp] theorem State.deliver_alarm (c : Command) : (s.deliver c).alarm = s.alarm := rfl
@[simp] theorem State.deliver_button (c : Command) : (s.deliver c).button = s.button := rfl
@[simp] theorem State.deliver_quad (c : Command) : (s.deliver c).quad = s.quad := rfl
@[simp] theorem State.deliver_inbox (c : Command) : (s.deliver c).inbox = c :: s.inbox := rfl
@[simp] theorem State.deliver_issuer (c : Command) : (s.deliver c).issuer = s.issuer := rfl
@[simp] theorem State.deliver_results (c : Command) : (s.deliver c).results = s.results := rfl
@[simp] theorem State.deliver_refusal (c : Command) : (s.deliver c).refusal = s.refusal := rfl

/-! ## The state after reset, R240 -/

@[simp] theorem State.resetWith_cfg (c : Config) : (State.resetWith c).cfg = c := rfl
@[simp] theorem State.resetWith_acc (c : Config) :
    (State.resetWith c).acc = { eventCount := 0#16, retiredCount := 0#16 } := rfl
@[simp] theorem State.resetWith_trim (c : Config) :
    (State.resetWith c).trim = { trimMag := 0#7, trimNeg := false, trimIdx := 0#7, trimActive := false } := rfl
@[simp] theorem State.resetWith_button (c : Config) :
    (State.resetWith c).button = { btnShift := 0x00#8, btnState := .released, holdCount := 0#8, holdDiv := 0#8 } := rfl
@[simp] theorem State.resetWith_quad (c : Config) :
    (State.resetWith c).quad = { quadNyb := 0x0#4, rotationCount := 0#8 } := rfl
@[simp] theorem State.resetWith_clock (c : Config) :
    (State.resetWith c).clock = { milliseconds := c.INIT_MS, minutes := 0#16 } := rfl
@[simp] theorem State.resetWith_inbox (c : Config) : (State.resetWith c).inbox = [] := rfl
@[simp] theorem State.resetWith_results (c : Config) : (State.resetWith c).results = [] := rfl
@[simp] theorem State.resetWith_refusal (c : Config) : (State.resetWith c).refusal = none := rfl

end Sys2Proof.Machine
end

