-- ==== Sys2Proof/Laws/Ops.lean ====
section
/-! SUPPORT. What each shared operation can do, said once: the checks, the two outcomes, the arithmetic, one step, and
what a command can do to the rest of the state. -/

namespace Sys2Proof.Machine

/-! ## Outcomes and checks -/

theorem done_eq (v : Word) (s : State) : done v s = .next (s.reply v) := rfl

theorem takeRefusal_eq (r : RefusalReason) (s : State) : takeRefusal r s = .next (s.refuse r) := rfl

theorem byAgent_of_eq {owner : Agent} {s : State} (h : s.issuer = owner) (k : Result) : byAgent owner s k = k :=
  if_pos h

theorem byAgent_of_ne {owner : Agent} {s : State} (h : s.issuer ≠ owner) (k : Result) :
    byAgent owner s k = .next (s.refuse .wrongAgent) :=
  if_neg h

/-- The agent check lets the owner's command through and refuses the other agent's. -/
theorem byAgent_cases {owner : Agent} {s t : State} {k : Result} (h : byAgent owner s k = .next t) :
    (s.issuer = owner ∧ k = .next t) ∨ (s.issuer ≠ owner ∧ t = s.refuse .wrongAgent) := by
  by_cases hi : s.issuer = owner
  · exact .inl ⟨hi, by rwa [byAgent_of_eq hi] at h⟩
  · rw [byAgent_of_ne hi] at h
    exact .inr ⟨hi, (Host.Outcome.next.inj h).symm⟩

@[simp] theorem withOperand_ok {α : Type} (a : α) (s : State) (k : α → Result) :
    withOperand (.ok a) s k = k a := rfl

@[simp] theorem withOperand_error {α : Type} (r : RefusalReason) (s : State) (k : α → Result) :
    withOperand (.error r) s k = .next (s.refuse r) := rfl

theorem trimOperand_of_ne {k : Byte} (h : k ≠ 0x80#8) : trimOperand k = .ok k.toInt := if_neg h

theorem intervalOperand_of_ne {n : Half} (h : n ≠ 0#16) : intervalOperand n = .ok n := if_neg h

theorem armedAlarm_of_ne {a : Alarm} (h : a.intervalLength ≠ 0#16) : armedAlarm a = .ok a := if_neg h

theorem armedAlarm_of_eq {a : Alarm} (h : a.intervalLength = 0#16) : armedAlarm a = .error .noInterval := if_pos h

/-! ## Arithmetic -/

theorem residue_lt (a : Int) {m : Nat} (h : 0 < m) : residue a m < m := by
  have := Int.emod_lt_of_pos a (by omega : (0 : Int) < m)
  have := Int.emod_nonneg a (by omega : (m : Int) ≠ 0)
  unfold residue
  omega

/-- As an integer, the residue is the mathematical one of R17. -/
theorem residue_cast (a : Int) {m : Nat} (h : 0 < m) : (residue a m : Int) = a % (m : Int) :=
  Int.toNat_of_nonneg (Int.emod_nonneg a (by omega))

theorem Config.legal_width {c : Config} (h : c.legal = true) : c.W = 8 ∨ c.W = 16 := by
  simp [Config.legal] at h
  exact h.1.1.1.1

theorem Config.legal_base {c : Config} (h : c.legal = true) : 1 ≤ c.BASE.toNat ∧ c.BASE.toNat ≤ 65534 := by
  simp [Config.legal] at h
  omega

theorem Config.legal_bound {c : Config} (h : c.legal = true) : 0 < c.R.toNat := by
  simp [Config.legal] at h
  omega

theorem Config.legal_divisor {c : Config} (h : c.legal = true) : 0 < c.UI_DIV.toNat := by
  simp [Config.legal] at h
  omega

theorem Config.legal_start {c : Config} (h : c.legal = true) : c.INIT_MS.toNat < 60000 := by
  simp [Config.legal] at h
  omega

/-- A legal width is at most 16, so a residue modulo `2^W` fits the 16 bits a counter is held in. -/
theorem pow_width_le {W : Nat} (h : W = 8 ∨ W = 16) : 2 ^ W ≤ 65536 := by
  rcases h with rfl | rfl <;> norm_num

theorem pow_width_pos (W : Nat) : 0 < 2 ^ W := Nat.two_pow_pos W

theorem counterSum_toNat {W : Nat} (h : W = 8 ∨ W = 16) (c : Half) (n : Nat) :
    (counterSum W c n).toNat = (c.toNat + n) % 2 ^ W := by
  have h1 := pow_width_le h
  have h2 := Nat.mod_lt (c.toNat + n) (pow_width_pos W)
  simp only [counterSum, BitVec.toNat_ofNat]
  omega

theorem pending_lt (W : Nat) (a : Accumulator) : a.pending W < 2 ^ W := residue_lt _ (pow_width_pos W)

/-! ## One step -/

theorem step_of_illegal {s : State} (h : s.cfg.legal = false) : step s = .refused .illegalConfig := by
  simp [step, fetch, h]

theorem step_of_idle {s : State} (h : s.cfg.legal = true) (hi : s.inbox = []) : step s = .next s := by
  simp [step, fetch, h, hi]

/-- A step with a command waiting: the command is decoded, then applied or refused, at the state that accepted it. -/
theorem step_of_command {s : State} {c : Command} {rest : List Command} (h : s.cfg.legal = true)
    (hi : s.inbox = c :: rest) :
    step s = match decode c.word with
      | .ok i => exec i (s.accept c rest)
      | .error r => .next ((s.accept c rest).refuse r) := by
  simp only [step, fetch, h, hi, if_true]
  rfl

/-! ## What a command can do to the rest of the state -/

/-- `t` is `s` after a command was refused, or after it was done with some result: nothing but the elements, the
results and the mark can differ, and the elements only with a result. -/
def State.Completes (s t : State) : Prop :=
  t.cfg = s.cfg ∧ t.inbox = s.inbox ∧ t.issuer = s.issuer ∧
  ((∃ r, t = s.refuse r) ∨ (∃ v, t.results = s.results ++ [⟨s.issuer, v⟩] ∧ t.refusal = s.refusal))

theorem State.Completes.refuse (s : State) (r : RefusalReason) : s.Completes (s.refuse r) :=
  ⟨rfl, rfl, rfl, .inl ⟨r, rfl⟩⟩

theorem byAgent_completes {owner : Agent} {s : State} {k : Result} (hk : ∃ t, k = .next t ∧ s.Completes t) :
    ∃ t, byAgent owner s k = .next t ∧ s.Completes t := by
  by_cases hi : s.issuer = owner
  · rwa [byAgent_of_eq hi]
  · exact ⟨_, byAgent_of_ne hi k, .refuse s _⟩

theorem withOperand_completes {α : Type} {x : Except RefusalReason α} {s : State} {k : α → Result}
    (hk : ∀ a, ∃ t, k a = .next t ∧ s.Completes t) : ∃ t, withOperand x s k = .next t ∧ s.Completes t := by
  cases x with
  | ok a => exact hk a
  | error r => exact ⟨_, rfl, .refuse s r⟩

/-- Every command answers a next state, and leaves the configuration, the inbox and the issuer alone. -/
theorem exec_completes (i : Instr) (s : State) : ∃ t, exec i s = .next t ∧ s.Completes t := by
  have ok (u : State) (v : Word) (h1 : u.cfg = s.cfg) (h2 : u.inbox = s.inbox) (h3 : u.issuer = s.issuer)
      (h4 : u.results = s.results) (h5 : u.refusal = s.refusal) : ∃ t, done v u = .next t ∧ s.Completes t :=
    ⟨_, rfl, h1, h2, h3, .inr ⟨v, by simp [h3, h4], h5⟩⟩
  cases i with
  | recordTick => exact byAgent_completes (ok _ _ rfl rfl rfl rfl rfl)
  | nextReload => exact byAgent_completes (ok _ _ rfl rfl rfl rfl rfl)
  | pendingTicks => exact byAgent_completes (ok _ _ rfl rfl rfl rfl rfl)
  | retire n => exact byAgent_completes (ok _ _ rfl rfl rfl rfl rfl)
  | retireAll => exact byAgent_completes (ok _ _ rfl rfl rfl rfl rfl)
  | setTrim k => exact byAgent_completes (withOperand_completes fun _ => ok _ _ rfl rfl rfl rfl rfl)
  | clockAdvance n => exact byAgent_completes (ok _ _ rfl rfl rfl rfl rfl)
  | clockUpdate => exact byAgent_completes (ok _ _ rfl rfl rfl rfl rfl)
  | startInterval n => exact byAgent_completes (withOperand_completes fun _ => ok _ _ rfl rfl rfl rfl rfl)
  | intervalElapsed => exact byAgent_completes (withOperand_completes fun _ => ok _ _ rfl rfl rfl rfl rfl)
  | consumeInterval =>
    refine byAgent_completes (withOperand_completes fun a => ?_)
    split
    · exact ok _ _ rfl rfl rfl rfl rfl
    · exact ok _ _ rfl rfl rfl rfl rfl
  | qdUpdate b q => exact byAgent_completes (ok _ _ rfl rfl rfl rfl rfl)
  | readReg r => exact byAgent_completes (withOperand_completes fun _ => ok _ _ rfl rfl rfl rfl rfl)

end Sys2Proof.Machine
end

