-- ==== Sys2Proof/Laws/Run.lean ====
section
/-! SUPPORT. A run over a sequence of commands as a fold of one total function, `State.after`: every command answers a
next state, and no command reads what is still waiting. -/

namespace Sys2Proof.Machine

/-- The state a command's outcome leaves, or `s` if it left none (it never does: `exec_completes`). -/
def Result.stateOr (s : State) : Result → State
  | .next t => t
  | .fault _ => s
  | .refused _ => s

/-- The state after `c` has been applied to `s`, whatever is waiting. -/
def State.after (s : State) (c : Command) : State :=
  match decode c.word with
  | .ok i => Result.stateOr s (exec i { s with issuer := c.agent })
  | .error r => { s with issuer := c.agent, refusal := some r }

/-- No command reads what is waiting: another inbox gives the same outcome with that inbox. -/
theorem exec_inbox (i : Instr) {s t : State} (h : exec i s = .next t) (l : List Command) :
    exec i { s with inbox := l } = .next { t with inbox := l } := by
  have agent (owner : Agent) (k k' : Result) (hk : ∀ t, k = .next t → k' = .next { t with inbox := l })
      (h : byAgent owner s k = .next t) : byAgent owner { s with inbox := l } k' = .next { t with inbox := l } := by
    by_cases hi : s.issuer = owner
    · rw [byAgent_of_eq hi] at h
      rw [byAgent_of_eq (s := { s with inbox := l }) hi]
      exact hk t h
    · rw [byAgent_of_ne hi] at h
      cases h
      exact byAgent_of_ne (s := { s with inbox := l }) hi _
  have plain (owner : Agent) (v : Word) (u : State) (hu : byAgent owner s (done v u) = .next t) :
      byAgent owner { s with inbox := l } (done v { u with inbox := l }) = .next { t with inbox := l } :=
    agent owner _ _ (fun t ht => by cases ht; rfl) hu
  cases i with
  | recordTick => exact plain _ _ _ h
  | nextReload => exact plain _ _ _ h
  | pendingTicks => exact plain _ _ _ h
  | retire n => exact plain _ _ _ h
  | retireAll => exact plain _ _ _ h
  | clockAdvance n => exact plain _ _ _ h
  | clockUpdate => exact plain _ _ _ h
  | qdUpdate b q => exact plain _ _ _ h
  | setTrim k =>
    refine agent _ _ _ (fun t ht => ?_) h
    cases ho : trimOperand k <;> rw [ho] at ht <;> cases ht <;> rfl
  | startInterval n =>
    refine agent _ _ _ (fun t ht => ?_) h
    cases ho : intervalOperand n <;> rw [ho] at ht <;> cases ht <;> rfl
  | readReg r =>
    refine agent _ _ _ (fun t ht => ?_) h
    cases ho : regOperand r <;> rw [ho] at ht <;> cases ht <;> rfl
  | intervalElapsed =>
    refine agent _ _ _ (fun t ht => ?_) h
    cases ho : armedAlarm s.alarm <;> rw [ho] at ht <;> cases ht <;> rfl
  | consumeInterval =>
    refine agent _ _ _ (fun t ht => ?_) h
    cases ho : armedAlarm s.alarm with
    | error r => rw [ho] at ht; cases ht; rfl
    | ok a =>
      rw [ho, withOperand_ok] at ht
      rw [withOperand_ok]
      split at ht <;> rename_i he
      · cases ht
        exact if_pos he
      · cases ht
        exact if_neg he

theorem State.after_of_error {s : State} {c : Command} {r : RefusalReason} (h : decode c.word = .error r) :
    s.after c = { s with issuer := c.agent, refusal := some r } := by
  simp only [State.after, h]

theorem State.after_of_exec {s t : State} {c : Command} {i : Instr} (h : decode c.word = .ok i)
    (he : exec i { s with issuer := c.agent } = .next t) : s.after c = t := by
  simp only [State.after, h, he, Result.stateOr]

/-- `State.after` keeps the configuration and the inbox. -/
theorem State.after_frame (s : State) (c : Command) : (s.after c).cfg = s.cfg ∧ (s.after c).inbox = s.inbox := by
  cases hd : decode c.word with
  | error r => rw [State.after_of_error hd]; exact ⟨rfl, rfl⟩
  | ok i =>
    obtain ⟨t, ht, hc⟩ := exec_completes i { s with issuer := c.agent }
    rw [State.after_of_exec hd ht]
    exact ⟨hc.1, hc.2.1⟩

@[simp] theorem State.after_cfg (s : State) (c : Command) : (s.after c).cfg = s.cfg := (s.after_frame c).1

@[simp] theorem State.after_inbox (s : State) (c : Command) : (s.after c).inbox = s.inbox := (s.after_frame c).2

/-- One step with `c` in front is `State.after`, with the rest left waiting. -/
theorem step_eq_after {s : State} {c : Command} {rest : List Command} (h : s.cfg.legal = true)
    (hi : s.inbox = c :: rest) : step s = .next { s.after c with inbox := rest } := by
  rw [step_of_command h hi]
  cases hd : decode c.word with
  | error r => rw [State.after_of_error hd]; rfl
  | ok i =>
    obtain ⟨t, ht, _⟩ := exec_completes i { s with issuer := c.agent }
    rw [State.after_of_exec hd ht]
    exact exec_inbox i ht rest

/-- One more step of any machine, when it answers `t`. -/
theorem run_succ (M : Host.Core) (k : Nat) {s t : M.State} (h : M.step s = .next t) : M.run (k + 1) s = M.run k t := by
  simp only [Host.Core.run, h]

/-- A run is the fold of `State.after` over its commands, with nothing left waiting. -/
theorem runCommands_eq_foldl (cmds : List Command) {s : State} (h : s.cfg.legal = true) :
    runCommands cmds s = .next { cmds.foldl State.after s with inbox := [] } := by
  induction cmds generalizing s with
  | nil => rfl
  | cons c cmds ih =>
    have ha : State.after { s with inbox := c :: cmds } c = { s.after c with inbox := c :: cmds } := by
      cases hd : decode c.word with
      | error r => rw [State.after_of_error hd, State.after_of_error hd]
      | ok i =>
        obtain ⟨t, ht, _⟩ := exec_completes i { s with issuer := c.agent }
        rw [State.after_of_exec hd ht]
        exact State.after_of_exec hd (exec_inbox i ht (c :: cmds))
    have hs : step { s with inbox := c :: cmds } = .next { s.after c with inbox := cmds } := by
      rw [step_eq_after (s := { s with inbox := c :: cmds }) (c := c) (rest := cmds) h rfl, ha]
    rw [List.foldl_cons, ← ih (s := s.after c) (by rw [State.after_cfg]; exact h)]
    exact run_succ Sys2Proof.core cmds.length hs

theorem foldl_after_cfg (cmds : List Command) (s : State) : (cmds.foldl State.after s).cfg = s.cfg := by
  induction cmds generalizing s with
  | nil => rfl
  | cons c cmds ih => rw [List.foldl_cons, ih, State.after_cfg]

end Sys2Proof.Machine
end

