-- ==== Sys2Proof/WellFormed.lean ====
section
/-! DEFINITION. When a command's operand is legal: the operand values R88 reserves make a term ill-formed. -/

namespace Sys2Proof

/-- The operand of the command is none of the reserved operand values of R88: SET_TRIM `k = -128` (R83, R121),
START_INTERVAL `n = 0` (R150), READ_REG index 0x0F to 0xFF (R61, R200). -/
def Instr.wellFormed : Instr → Bool
  | .recordTick => true
  | .nextReload => true
  | .pendingTicks => true
  | .retire _ => true
  | .retireAll => true
  | .setTrim k => k != 0x80#8
  | .clockAdvance _ => true
  | .clockUpdate => true
  | .startInterval n => n != 0#16
  | .intervalElapsed => true
  | .consumeInterval => true
  | .qdUpdate _ _ => true
  | .readReg i => i ≤ 0x0E#8

end Sys2Proof
end

