-- ==== Sys2Proof/Laws/Commands.lean ====
section
/-! SUPPORT. What each command does when it is not refused, in the named updates of the state; when it is
refused; and, over all commands at once, what a command can change. -/

namespace Sys2Proof.Machine

variable {s : State}

theorem exec_recordTick (h : s.issuer = .tick) :
    exec .recordTick s =
      .next ((s.withAcc { s.acc with eventCount := counterSum s.cfg.W s.acc.eventCount 1 }).reply 0#32) :=
  byAgent_of_eq h _

theorem exec_nextReload (h : s.issuer = .tick) :
    exec .nextReload s =
      .next ((s.withTrim s.trim.afterReload).reply (BitVec.ofInt 32 (s.trim.reload s.cfg.BASE))) :=
  byAgent_of_eq h _

theorem exec_pendingTicks (h : s.issuer = .consumer) :
    exec .pendingTicks s = .next (s.reply (BitVec.ofNat 32 (s.acc.pending s.cfg.W))) :=
  byAgent_of_eq h _

theorem exec_retire (n : Half) (h : s.issuer = .consumer) :
    exec (.retire n) s = .next ((s.withAcc (s.acc.retireBy s.cfg.W n.toNat)).reply 0#32) :=
  byAgent_of_eq h _

theorem exec_retireAll (h : s.issuer = .consumer) :
    exec .retireAll s = .next ((s.withAcc { s.acc with retiredCount := s.acc.eventCount }).reply 0#32) :=
  byAgent_of_eq h _

theorem exec_setTrim {k : Byte} (hk : k ≠ 0x80#8) (h : s.issuer = .consumer) :
    exec (.setTrim k) s = .next ((s.withTrim (Trim.configured k.toInt)).reply 0#32) := by
  refine (byAgent_of_eq h _).trans ?_
  rw [trimOperand_of_ne hk]
  rfl

theorem exec_clockAdvance (n : Half) (h : s.issuer = .consumer) :
    exec (.clockAdvance n) s = .next ((s.withClock (s.clock.advance n.toNat)).reply 0#32) :=
  byAgent_of_eq h _

theorem exec_clockUpdate (h : s.issuer = .consumer) :
    exec .clockUpdate s =
      .next (((s.withAcc (s.acc.retireBy s.cfg.W (s.acc.pending s.cfg.W))).withClock
        (s.clock.advance (s.acc.pending s.cfg.W))).reply (BitVec.ofNat 32 (s.acc.pending s.cfg.W))) :=
  byAgent_of_eq h _

theorem exec_startInterval {n : Half} (hn : n ≠ 0#16) (h : s.issuer = .consumer) :
    exec (.startInterval n) s =
      .next ((s.withAlarm (Alarm.armed s.cfg.R.toNat s.clock.milliseconds n)).reply 0#32) := by
  refine (byAgent_of_eq h _).trans ?_
  rw [intervalOperand_of_ne hn]
  rfl

theorem exec_intervalElapsed (ha : s.alarm.intervalLength ≠ 0#16) (h : s.issuer = .consumer) :
    exec .intervalElapsed s =
      .next (s.reply (boolResult (s.alarm.elapsed s.cfg.R.toNat s.clock.milliseconds))) := by
  refine (byAgent_of_eq h _).trans ?_
  rw [armedAlarm_of_ne ha]
  rfl

theorem exec_consumeInterval_of_elapsed (ha : s.alarm.intervalLength ≠ 0#16)
    (he : s.alarm.elapsed s.cfg.R.toNat s.clock.milliseconds = true) (h : s.issuer = .consumer) :
    exec .consumeInterval s = .next ((s.withAlarm (s.alarm.rearmed s.cfg.R.toNat)).reply 1#32) := by
  refine (byAgent_of_eq h _).trans ?_
  rw [armedAlarm_of_ne ha]
  exact if_pos he

theorem exec_consumeInterval_of_not_elapsed (ha : s.alarm.intervalLength ≠ 0#16)
    (he : ¬ s.alarm.elapsed s.cfg.R.toNat s.clock.milliseconds = true) (h : s.issuer = .consumer) :
    exec .consumeInterval s = .next (s.reply 0#32) := by
  refine (byAgent_of_eq h _).trans ?_
  rw [armedAlarm_of_ne ha]
  exact if_neg he

theorem exec_qdUpdate (b : Bool) (q : BitVec 2) (h : s.issuer = .consumer) :
    exec (.qdUpdate b q) s =
      .next (((s.withButton (s.button.step s.cfg.UI_DIV.toNat b).1).withQuad (s.quad.step s.cfg.ROT_MODE q).1).reply
        ((s.button.step s.cfg.UI_DIV.toNat b).2 ||| (s.quad.step s.cfg.ROT_MODE q).2)) :=
  byAgent_of_eq h _

theorem exec_readReg {i : Byte} {r : RegName} (hr : regOperand i = .ok r) (h : s.issuer = .consumer) :
    exec (.readReg i) s = .next (s.reply (view r s)) := by
  refine (byAgent_of_eq h _).trans ?_
  rw [hr]
  rfl

/-! ## Refusals -/

theorem exec_of_wrongAgent {i : Instr} (h : s.issuer ≠ i.owner) : exec i s = .next (s.refuse .wrongAgent) := by
  cases i <;> exact byAgent_of_ne h _

theorem exec_setTrim_reserved (h : s.issuer = .consumer) :
    exec (.setTrim 0x80#8) s = .next (s.refuse .reservedOperand) :=
  byAgent_of_eq h _

theorem exec_startInterval_zero (h : s.issuer = .consumer) :
    exec (.startInterval 0#16) s = .next (s.refuse .zeroInterval) :=
  byAgent_of_eq h _

theorem exec_intervalElapsed_unarmed (ha : s.alarm.intervalLength = 0#16) (h : s.issuer = .consumer) :
    exec .intervalElapsed s = .next (s.refuse .noInterval) := by
  refine (byAgent_of_eq h _).trans ?_
  rw [armedAlarm_of_eq ha]
  rfl

theorem exec_consumeInterval_unarmed (ha : s.alarm.intervalLength = 0#16) (h : s.issuer = .consumer) :
    exec .consumeInterval s = .next (s.refuse .noInterval) := by
  refine (byAgent_of_eq h _).trans ?_
  rw [armedAlarm_of_eq ha]
  rfl

/-- An index above 0x0E names no register (R61). -/
theorem regOperand_reserved {i : Byte} (h : 0x0E < i.toNat) : regOperand i = .error .reservedIndex := by
  unfold regOperand
  rw [List.getElem?_eq_none (by show 15 ≤ _; omega)]

theorem exec_readReg_reserved {i : Byte} (hi : 0x0E < i.toNat) (h : s.issuer = .consumer) :
    exec (.readReg i) s = .next (s.refuse .reservedIndex) := by
  refine (byAgent_of_eq h _).trans ?_
  rw [regOperand_reserved hi]
  rfl

theorem exec_readReg_error {i : Byte} {r : RefusalReason} (hr : regOperand i = .error r) (h : s.issuer = .consumer) :
    exec (.readReg i) s = .next (s.refuse r) := by
  refine (byAgent_of_eq h _).trans ?_
  rw [hr]
  rfl

/-! ## Every command at once -/

/-- The elements a command leaves when it is done, as one named update of the state. -/
def effect (i : Instr) (s : State) : State :=
  match i with
  | .recordTick => s.withAcc { s.acc with eventCount := counterSum s.cfg.W s.acc.eventCount 1 }
  | .nextReload => s.withTrim s.trim.afterReload
  | .pendingTicks => s
  | .retire n => s.withAcc (s.acc.retireBy s.cfg.W n.toNat)
  | .retireAll => s.withAcc { s.acc with retiredCount := s.acc.eventCount }
  | .setTrim k => s.withTrim (Trim.configured k.toInt)
  | .clockAdvance n => s.withClock (s.clock.advance n.toNat)
  | .clockUpdate =>
    (s.withAcc (s.acc.retireBy s.cfg.W (s.acc.pending s.cfg.W))).withClock (s.clock.advance (s.acc.pending s.cfg.W))
  | .startInterval n => s.withAlarm (Alarm.armed s.cfg.R.toNat s.clock.milliseconds n)
  | .intervalElapsed => s
  | .consumeInterval =>
    if s.alarm.elapsed s.cfg.R.toNat s.clock.milliseconds then s.withAlarm (s.alarm.rearmed s.cfg.R.toNat) else s
  | .qdUpdate b q =>
    (s.withButton (s.button.step s.cfg.UI_DIV.toNat b).1).withQuad (s.quad.step s.cfg.ROT_MODE q).1
  | .readReg _ => s

/-- A command that answers `t` was refused, or was issued by its own agent with a legal operand and has its effect. -/
theorem exec_inversion {i : Instr} {t : State} (h : exec i s = .next t) :
    (∃ r, t = s.refuse r) ∨ (s.issuer = i.owner ∧ i.wellFormed = true ∧ ∃ v, t = (effect i s).reply v) := by
  by_cases ho : s.issuer = i.owner
  swap
  · rw [exec_of_wrongAgent ho] at h
    exact .inl ⟨_, (Host.Outcome.next.inj h).symm⟩
  have refusedBy {r : RefusalReason} (he : exec i s = .next (s.refuse r)) : ∃ r, t = s.refuse r :=
    ⟨r, Host.Outcome.next.inj (h.symm.trans he)⟩
  have doneBy {v : Word} (he : exec i s = .next ((effect i s).reply v)) : ∃ v, t = (effect i s).reply v :=
    ⟨v, Host.Outcome.next.inj (h.symm.trans he)⟩
  cases i with
  | recordTick => exact .inr ⟨ho, rfl, doneBy (exec_recordTick ho)⟩
  | nextReload => exact .inr ⟨ho, rfl, doneBy (exec_nextReload ho)⟩
  | pendingTicks => exact .inr ⟨ho, rfl, doneBy (exec_pendingTicks ho)⟩
  | retire n => exact .inr ⟨ho, rfl, doneBy (exec_retire n ho)⟩
  | retireAll => exact .inr ⟨ho, rfl, doneBy (exec_retireAll ho)⟩
  | setTrim k =>
    by_cases hk : k = 0x80#8
    · subst hk
      exact .inl (refusedBy (exec_setTrim_reserved ho))
    · exact .inr ⟨ho, bne_iff_ne.2 hk, doneBy (exec_setTrim hk ho)⟩
  | clockAdvance n => exact .inr ⟨ho, rfl, doneBy (exec_clockAdvance n ho)⟩
  | clockUpdate => exact .inr ⟨ho, rfl, doneBy (exec_clockUpdate ho)⟩
  | startInterval n =>
    by_cases hn : n = 0#16
    · subst hn
      exact .inl (refusedBy (exec_startInterval_zero ho))
    · exact .inr ⟨ho, bne_iff_ne.2 hn, doneBy (exec_startInterval hn ho)⟩
  | intervalElapsed =>
    by_cases ha : s.alarm.intervalLength = 0#16
    · exact .inl (refusedBy (exec_intervalElapsed_unarmed ha ho))
    · exact .inr ⟨ho, rfl, doneBy (exec_intervalElapsed ha ho)⟩
  | consumeInterval =>
    by_cases ha : s.alarm.intervalLength = 0#16
    · exact .inl (refusedBy (exec_consumeInterval_unarmed ha ho))
    · refine .inr ⟨ho, rfl, ?_⟩
      by_cases he : s.alarm.elapsed s.cfg.R.toNat s.clock.milliseconds = true
      · refine doneBy (v := 1#32) ((exec_consumeInterval_of_elapsed ha he ho).trans ?_)
        simp only [effect, he, if_true]
      · refine doneBy (v := 0#32) ((exec_consumeInterval_of_not_elapsed ha he ho).trans ?_)
        simp only [effect, he, if_false, Bool.false_eq_true]
  | qdUpdate b q => exact .inr ⟨ho, rfl, doneBy (exec_qdUpdate b q ho)⟩
  | readReg i =>
    by_cases hi : i ≤ 0x0E#8
    · cases hr : regOperand i with
      | ok r => exact .inr ⟨ho, decide_eq_true hi, doneBy (exec_readReg hr ho)⟩
      | error r => exact .inl (refusedBy (exec_readReg_error hr ho))
    · refine .inl (refusedBy (exec_readReg_reserved ?_ ho))
      simpa [BitVec.le_def] using hi

/-- What a step does to the state: nothing while idle, else the front command is refused or has its effect, and is taken
from the inbox. -/
theorem step_inversion {t : State} (h : step s = .next t) :
    s.cfg.legal = true ∧
    ((s.inbox = [] ∧ t = s) ∨
      ∃ c rest, s.inbox = c :: rest ∧
        ((∃ r, t = (s.accept c rest).refuse r) ∨
          ∃ i v, decode c.word = .ok i ∧ c.agent = i.owner ∧ i.wellFormed = true ∧
            t = (effect i (s.accept c rest)).reply v)) := by
  by_cases hl : s.cfg.legal = true
  swap
  · rw [step_of_illegal (by simpa using hl)] at h
    cases h
  refine ⟨hl, ?_⟩
  cases hi : s.inbox with
  | nil =>
    rw [step_of_idle hl hi] at h
    exact .inl ⟨rfl, (Host.Outcome.next.inj h).symm⟩
  | cons c rest =>
    refine .inr ⟨c, rest, rfl, ?_⟩
    rw [step_of_command hl hi] at h
    cases hd : decode c.word with
    | error r =>
      rw [hd] at h
      exact .inl ⟨r, (Host.Outcome.next.inj h).symm⟩
    | ok i =>
      rw [hd] at h
      rcases exec_inversion h with hr | ⟨ho, hw, v, hv⟩
      · exact .inl hr
      · exact .inr ⟨i, v, rfl, ho, hw, hv⟩

/-- What `State.after` does to a state: the command is refused, or has its effect and returns a result. -/
theorem State.after_inversion (s : State) (c : Command) :
    (∃ r, s.after c = { s with issuer := c.agent, refusal := some r }) ∨
      ∃ i v, decode c.word = .ok i ∧ c.agent = i.owner ∧ i.wellFormed = true ∧
        s.after c = (effect i { s with issuer := c.agent }).reply v := by
  cases hd : decode c.word with
  | error r => exact .inl ⟨r, State.after_of_error hd⟩
  | ok i =>
    obtain ⟨t, ht, _⟩ := exec_completes i { s with issuer := c.agent }
    rw [State.after_of_exec hd ht]
    rcases exec_inversion ht with ⟨r, rfl⟩ | ⟨ho, hw, v, rfl⟩
    · exact .inl ⟨r, rfl⟩
    · exact .inr ⟨i, v, rfl, ho, hw, rfl⟩

end Sys2Proof.Machine
end

