-- ==== Sys2Proof/Laws/Accumulator.lean ====
section
/-! SUPPORT. The tick counters in mathematical arithmetic (R24, R101, R103). -/

namespace Sys2Proof.Machine

/-- The pending count as an integer residue. -/
theorem pending_cast (W : Nat) (a : Accumulator) :
    (a.pending W : Int) = ((a.eventCount.toNat : Int) - a.retiredCount.toNat) % (2 ^ W : Int) := by
  unfold Accumulator.pending
  rw [residue_cast _ (pow_width_pos W)]
  push_cast
  rfl

theorem counterSum_cast {W : Nat} (h : W = 8 ∨ W = 16) (c : Half) (n : Nat) :
    ((counterSum W c n).toNat : Int) = ((c.toNat : Int) + n) % (2 ^ W : Int) := by
  rw [counterSum_toNat h]
  push_cast
  rfl

/-- One more event adds one to the pending count, modulo `2^W`. -/
theorem pending_counted {W : Nat} (h : W = 8 ∨ W = 16) (a : Accumulator) :
    ({ a with eventCount := counterSum W a.eventCount 1 } : Accumulator).pending W = (a.pending W + 1) % 2 ^ W := by
  zify
  rw [pending_cast, pending_cast, counterSum_cast h]
  push_cast
  rw [Int.emod_sub_emod, Int.emod_add_emod]
  congr 1
  ring

/-- Retiring `n` takes `n` off the pending count, modulo `2^W`. -/
theorem pending_retireBy {W : Nat} (h : W = 8 ∨ W = 16) (a : Accumulator) (n : Nat) :
    ((a.retireBy W n).pending W : Int) = ((a.pending W : Int) - n) % (2 ^ W : Int) := by
  have e : ((a.retireBy W n).retiredCount.toNat : Int) = ((a.retiredCount.toNat : Int) + n) % (2 ^ W : Int) :=
    counterSum_cast h _ _
  rw [pending_cast, pending_cast, e, Int.sub_emod_emod, Int.emod_sub_emod]
  congr 1
  show (a.eventCount.toNat : Int) - (a.retiredCount.toNat + n) = _
  ring

/-- Retiring everything pending brings the counters together, while they are in range. -/
theorem retireBy_pending {W : Nat} (h : W = 8 ∨ W = 16) {a : Accumulator} (ha : a.InRange W) :
    (a.retireBy W (a.pending W)).retiredCount = a.eventCount := by
  apply BitVec.eq_of_toNat_eq
  zify
  rw [show ((a.retireBy W (a.pending W)).retiredCount.toNat : Int) = _ from counterSum_cast h _ _, pending_cast,
    Int.add_emod_emod, add_sub_cancel]
  exact_mod_cast Nat.mod_eq_of_lt ha.1

end Sys2Proof.Machine
end

