-- ==== Sys2Proof/Laws/Debouncer.lean ====
section
/-! SUPPORT. The two sub-machines of the debouncer (R172 to R182): what each part of a sample's step does. -/

namespace Sys2Proof.Machine

theorem shiftedHistory_toNat :
    ∀ (h : Byte) (b : Bool), (shiftedHistory h b).toNat = (2 * h.toNat + b.toNat) % 256 := by decide

theorem shiftedWindow_toNat :
    ∀ (n : BitVec 4) (q : BitVec 2), (shiftedWindow n q).toNat = 4 * (n.toNat % 4) + q.toNat := by decide

/-! ## The button sub-machine -/

@[simp] theorem held_btnShift (d : Nat) (x : Button) : (x.held d).1.btnShift = x.btnShift := by
  unfold Button.held
  split
  · split <;> rfl
  · rfl

@[simp] theorem held_btnState (d : Nat) (x : Button) : (x.held d).1.btnState = x.btnState := by
  unfold Button.held
  split
  · split <;> rfl
  · rfl

theorem step_of_transition {d : Nat} {b : Bool} {x : Button} {st : ButtonState}
    (h : x.btnState.transition (shiftedHistory x.btnShift b) = some st) :
    x.step d b = (⟨shiftedHistory x.btnShift b, st, 0#8, 0#8⟩,
      unvalidatedEvent (shiftedHistory x.btnShift b) ||| transitionEvent (some st)) := by
  simp only [Button.step, h]

theorem step_of_no_transition {d : Nat} {b : Bool} {x : Button}
    (h : x.btnState.transition (shiftedHistory x.btnShift b) = none) :
    x.step d b = ((Button.held d { x with btnShift := shiftedHistory x.btnShift b }).1,
      unvalidatedEvent (shiftedHistory x.btnShift b) |||
        (Button.held d { x with btnShift := shiftedHistory x.btnShift b }).2) := by
  simp only [Button.step, h]

@[simp] theorem step_btnShift (d : Nat) (b : Bool) (x : Button) :
    (x.step d b).1.btnShift = shiftedHistory x.btnShift b := by
  cases h : x.btnState.transition (shiftedHistory x.btnShift b) with
  | some st => rw [step_of_transition h]
  | none => rw [step_of_no_transition h, held_btnShift]

/-- The divider stays below `UI_DIV`. -/
theorem held_inRange {d : Nat} (hd : d < 256) {x : Button} (h : x.InRange d) : (x.held d).1.InRange d := by
  have h1 : x.holdDiv.toNat < d := h
  unfold Button.held Button.InRange
  split
  · split
    · show 0 < d
      omega
    · show 0 < d
      omega
  · show (BitVec.ofNat 8 (x.holdDiv.toNat + 1)).toNat < d
    rw [BitVec.toNat_ofNat]
    omega

theorem step_inRange {d : Nat} (hd : d < 256) (b : Bool) {x : Button} (h : x.InRange d) : (x.step d b).1.InRange d := by
  cases ht : x.btnState.transition (shiftedHistory x.btnShift b) with
  | some st =>
    rw [step_of_transition ht]
    have h1 : x.holdDiv.toNat < d := h
    show 0 < d
    omega
  | none =>
    rw [step_of_no_transition ht]
    exact held_inRange hd h

/-! ## The quadrature sub-machine -/

/-- The windows of R181 by their decode. -/
theorem rotationOf_event :
    ∀ n : BitVec 4,
      ((rotationOf n).event.getLsbD 0 = true ↔ n ∈ [0b0001#4, 0b0111#4, 0b1000#4, 0b1110#4]) ∧
      ((rotationOf n).event.getLsbD 1 = true ↔ n ∈ [0b0010#4, 0b0100#4, 0b1011#4, 0b1101#4]) ∧
      (rotationOf n).event.toNat < 4 := by decide

/-- The change a window asks for (R182). -/
theorem rotationOf_delta :
    ∀ n : BitVec 4, (rotationOf n).delta =
      if (rotationOf n).event.getLsbD 0 then 1 else if (rotationOf n).event.getLsbD 1 then -1 else 0 := by decide

theorem rotated_zero (m : RotMode) (c : Byte) : rotated m c 0 = c := by
  have h1 : c.toInt < 128 := c.toInt_lt
  have h2 : -128 ≤ c.toInt := c.le_toInt
  have e : min 127 (max (-128) (c.toInt + 0)) = c.toInt := by omega
  cases m
  · exact (congrArg (BitVec.ofInt 8) (Int.add_zero _)).trans BitVec.ofInt_toInt
  · exact (congrArg (BitVec.ofInt 8) e).trans BitVec.ofInt_toInt

end Sys2Proof.Machine
end

