-- ==== Sys2Proof/Laws/PerInstr.lean ====
section
/-! SUPPORT. Statements made for every command of the table, one lemma a constructor. -/

namespace Sys2Proof.Laws.EncodedFields

/-- R80, R81, R86: the command's word has its row's opcode byte on top, its operand field at the bottom, and every bit
its format reserves clear. -/
def Statement (i : Instr) : Prop :=
  opcodeField (encode i) = i.opcode.toByte ∧ u16Field (encode i) = i.operandField ∧
    encode i &&& i.opcode.format.reserved = 0#32

/-- The three facts hold of any command; the lemmas below name the constructors. -/
theorem all (i : Instr) : Statement i := ⟨opcodeField_encode i, u16Field_encode i, reserved_encode i⟩

theorem recordTick : Statement .recordTick := all _

theorem nextReload : Statement .nextReload := all _

theorem pendingTicks : Statement .pendingTicks := all _

theorem retire (n : Half) : Statement (.retire n) := all _

theorem retireAll : Statement .retireAll := all _

theorem setTrim (k : Byte) : Statement (.setTrim k) := all _

theorem clockAdvance (n : Half) : Statement (.clockAdvance n) := all _

theorem clockUpdate : Statement .clockUpdate := all _

theorem startInterval (n : Half) : Statement (.startInterval n) := all _

theorem intervalElapsed : Statement .intervalElapsed := all _

theorem consumeInterval : Statement .consumeInterval := all _

theorem qdUpdate (b : Bool) (q : BitVec 2) : Statement (.qdUpdate b q) := all _

theorem readReg (i : Byte) : Statement (.readReg i) := all _

end Sys2Proof.Laws.EncodedFields
end

