-- ==== Sys2Proof/Laws/Reload.lean ====
section
/-! SUPPORT. The duty cycle of the trim (R28, R29, R121 to R125): its phase, and the range of a reload value. -/

namespace Sys2Proof.Machine

/-- The position in the whole cycle of `2*trimMag` reloads: the active half first. -/
def Trim.phase (t : Trim) : Nat := if t.trimActive then t.trimIdx.toNat else t.trimMag.toNat + t.trimIdx.toNat

theorem Trim.phase_lt {t : Trim} (h : t.Consistent) (h0 : t.trimMag ≠ 0#7) : t.phase < 2 * t.trimMag.toNat := by
  have := h.2 h0
  unfold Trim.phase
  split <;> omega

/-- A reload moves the phase on by one, around the cycle. -/
theorem Trim.phase_advanced {t : Trim} (h : t.Consistent) (h0 : t.trimMag ≠ 0#7) :
    t.advanced.phase = (t.phase + 1) % (2 * t.trimMag.toNat) := by
  have h1 := h.2 h0
  have := t.trimMag.isLt
  unfold Trim.advanced Trim.phase
  split
  · cases t.trimActive
    · simp only [Bool.not_false, if_true, Bool.false_eq_true, if_false]
      rw [show t.trimMag.toNat + t.trimIdx.toNat + 1 = 2 * t.trimMag.toNat by omega, Nat.mod_self]
      rfl
    · simp only [Bool.not_true, Bool.false_eq_true, if_false, if_true]
      rw [Nat.mod_eq_of_lt (by omega)]
      show t.trimMag.toNat + 0 = _
      omega
  · have e : (BitVec.ofNat 7 (t.trimIdx.toNat + 1)).toNat = t.trimIdx.toNat + 1 := by rw [BitVec.toNat_ofNat]; omega
    simp only [e]
    rw [Nat.mod_eq_of_lt (by split <;> omega)]
    split <;> omega

@[simp] theorem Trim.advanced_trimMag (t : Trim) : t.advanced.trimMag = t.trimMag := by
  unfold Trim.advanced
  split <;> rfl

@[simp] theorem Trim.advanced_trimNeg (t : Trim) : t.advanced.trimNeg = t.trimNeg := by
  unfold Trim.advanced
  split <;> rfl

/-- The adjustment is the trim's sign in the first half of the cycle and 0 in the second. -/
theorem Trim.adjustment_eq {t : Trim} (h : t.Consistent) (h0 : t.trimMag ≠ 0#7) :
    t.adjustment = if t.phase < t.trimMag.toNat then (if t.trimNeg then -1 else 1) else 0 := by
  have h1 := h.2 h0
  unfold Trim.adjustment Trim.phase
  cases t.trimActive
  · simp
  · simp [h1]

theorem Trim.afterReload_consistent {t : Trim} (h : t.Consistent) : t.afterReload.Consistent := by
  unfold Trim.afterReload
  split
  · exact h
  · rename_i h0
    have h1 := h.2 h0
    have := t.trimMag.isLt
    unfold Trim.advanced
    split
    · exact ⟨fun h => absurd h h0, fun _ => by show 0 < t.trimMag.toNat; omega⟩
    · refine ⟨fun h => absurd h h0, fun _ => ?_⟩
      show (BitVec.ofNat 7 (t.trimIdx.toNat + 1)).toNat < t.trimMag.toNat
      rw [BitVec.toNat_ofNat]
      omega

theorem Trim.configured_consistent : ∀ k : Byte, k ≠ 0x80#8 → (Trim.configured k.toInt).Consistent := by decide

/-- The adjustment of a reload is -1, 0 or 1, with the sign of the trim. -/
theorem Trim.reload_cases (BASE : Half) (t : Trim) :
    t.reload BASE = BASE.toNat ∨ (t.trimNeg = true ∧ t.reload BASE = (BASE.toNat : Int) - 1) ∨
      (t.trimNeg = false ∧ t.reload BASE = (BASE.toNat : Int) + 1) := by
  unfold Trim.reload Trim.adjustment
  split
  · exact .inl rfl
  · cases t.trimActive
    · exact .inl (by simp)
    · cases t.trimNeg
      · exact .inr (.inr ⟨rfl, by simp⟩)
      · exact .inr (.inl ⟨rfl, by simp [sub_eq_add_neg]⟩)

/-- The returned word is the reload value itself. -/
theorem reload_word {BASE : Half} (h : 1 ≤ BASE.toNat ∧ BASE.toNat ≤ 65534) (t : Trim) :
    ((BitVec.ofInt 32 (t.reload BASE)).toNat : Int) = t.reload BASE := by
  have := t.reload_cases BASE
  rw [BitVec.toNat_ofInt]
  omega

end Sys2Proof.Machine
end

