-- ==== Sys2Proof/Laws/WallClock.lean ====
section
/-! SUPPORT. The wall clock and the alarm in mathematical arithmetic (R141, R150, R155, R162). -/

namespace Sys2Proof.Machine

@[simp] theorem advance_milliseconds_toNat (c : Clock) (n : Nat) :
    (c.advance n).milliseconds.toNat = (c.milliseconds.toNat + n) % 60000 := by
  simp only [Clock.advance, BitVec.toNat_ofNat]
  omega

@[simp] theorem advance_minutes_toNat (c : Clock) (n : Nat) :
    (c.advance n).minutes.toNat = (c.minutes.toNat + (c.milliseconds.toNat + n) / 60000) % 2 ^ 16 := by
  simp only [Clock.advance, BitVec.toNat_ofNat]
  omega

/-- The time since the deadline as an integer residue. -/
theorem sinceDeadline_cast {R : Nat} (h : 0 < R) (ms : Half) (a : Alarm) :
    (a.sinceDeadline R ms : Int) = ((ms.toNat : Int) - a.nextIntervalDeadline.toNat) % (R : Int) :=
  residue_cast _ h

theorem sinceDeadline_lt {R : Nat} (h : 0 < R) (ms : Half) (a : Alarm) : a.sinceDeadline R ms < R := residue_lt _ h

theorem elapsed_iff (R : Nat) (ms : Half) (a : Alarm) :
    a.elapsed R ms = true ↔ a.sinceDeadline R ms < a.intervalLength.toNat :=
  decide_eq_true_iff

/-- A residue modulo `R` fits the deadline register. -/
theorem deadline_toNat (R : Half) (h : 0 < R.toNat) (n : Nat) :
    (BitVec.ofNat 16 (n % R.toNat)).toNat = n % R.toNat := by
  have := Nat.mod_lt n h
  have := R.isLt
  rw [BitVec.toNat_ofNat]
  omega

theorem armed_deadline_toNat (R : Half) (h : 0 < R.toNat) (ms n : Half) :
    (Alarm.armed R.toNat ms n).nextIntervalDeadline.toNat = (ms.toNat + n.toNat) % R.toNat :=
  deadline_toNat R h _

theorem rearmed_deadline_toNat (R : Half) (h : 0 < R.toNat) (a : Alarm) :
    (a.rearmed R.toNat).nextIntervalDeadline.toNat =
      (a.nextIntervalDeadline.toNat + a.intervalLength.toNat) % R.toNat :=
  deadline_toNat R h _

@[simp] theorem rearmed_intervalLength (R : Nat) (a : Alarm) : (a.rearmed R).intervalLength = a.intervalLength := rfl

/-- A successful consume takes one interval off the time since the deadline, modulo `R`. -/
theorem sinceDeadline_rearmed (R : Half) (h : 0 < R.toNat) (ms : Half) (a : Alarm) :
    ((a.rearmed R.toNat).sinceDeadline R.toNat ms : Int) =
      ((a.sinceDeadline R.toNat ms : Int) - a.intervalLength.toNat) % (R.toNat : Int) := by
  rw [sinceDeadline_cast h, sinceDeadline_cast h, rearmed_deadline_toNat R h]
  push_cast
  rw [Int.sub_emod_emod, Int.emod_sub_emod]
  congr 1
  ring

end Sys2Proof.Machine
end

