-- ==== Sys2Proof/Tests/Slice0.lean ====
section
/-! SUPPORT. The model's own tests. Every expected word, result and element value is taken from spec/30_encoding.md or
from the vectors of spec/95_test_vectors.md (V and L numbers), not from a run of the model. The witnesses at the end
show states and operands that meet the hypotheses of each obligation. -/

namespace Sys2Proof.Tests.Slice0

open Sys2Proof Sys2Proof.Machine

/-! ## Words written out from R81 and R86 -/

theorem test_word_recordTick : decode 0b00000001_00000000_0000000000000000#32 = .ok .recordTick := by decide
theorem test_word_nextReload : decode 0b00000010_00000000_0000000000000000#32 = .ok .nextReload := by decide
theorem test_word_pendingTicks : decode 0b00010000_00000000_0000000000000000#32 = .ok .pendingTicks := by decide
theorem test_word_retire : decode 0b00010001_00000000_1000000000000101#32 = .ok (.retire 32773#16) := by decide
theorem test_word_retireAll : decode 0b00010010_00000000_0000000000000000#32 = .ok .retireAll := by decide
theorem test_word_setTrim : decode 0b00100000_00000000_00000000_10000001#32 = .ok (.setTrim (BitVec.ofInt 8 (-127))) := by
  decide
theorem test_word_clockAdvance : decode 0b00110000_00000000_0000000111110100#32 = .ok (.clockAdvance 500#16) := by decide
theorem test_word_clockUpdate : decode 0b00110001_00000000_0000000000000000#32 = .ok .clockUpdate := by decide
theorem test_word_startInterval : decode 0b00110010_00000000_0000001111101000#32 = .ok (.startInterval 1000#16) := by decide
theorem test_word_intervalElapsed : decode 0b00110011_00000000_0000000000000000#32 = .ok .intervalElapsed := by decide
theorem test_word_consumeInterval : decode 0b00110100_00000000_0000000000000000#32 = .ok .consumeInterval := by decide
theorem test_word_qdUpdate : decode 0b01000000_00000000_0000000000000_1_01#32 = .ok (.qdUpdate true 0b01#2) := by decide
theorem test_word_qdUpdate_released : decode 0b01000000_00000000_0000000000000_0_10#32 = .ok (.qdUpdate false 0b10#2) := by
  decide
theorem test_word_readReg : decode 0b01010000_00000000_00000000_00001110#32 = .ok (.readReg 0x0E#8) := by decide

/-- The encoder writes the words of the examples. -/
theorem test_encode :
    [encode (.retire 10#16), encode (.setTrim (BitVec.ofInt 8 (-3))), encode (.startInterval 1000#16),
      encode (.qdUpdate true 0b11#2), encode (.readReg 0x0E#8), encode .clockUpdate] =
    [0x1100000A#32, 0x200000FD#32, 0x320003E8#32, 0x40000007#32, 0x5000000E#32, 0x31000000#32] := by decide

theorem test_decodeTableWord : decodeTableWord 32 0x30000005 = some (.clockAdvance 5#16) := by decide
theorem test_decodeTableWord_reserved : decodeTableWord 32 0x30010005 = none := by decide

/-! ## WellFormed: an ill-formed term for each check -/

theorem test_wellFormed_refuses_trim : Instr.wellFormed (.setTrim 0x80#8) = false := by decide
theorem test_wellFormed_refuses_interval : Instr.wellFormed (.startInterval 0#16) = false := by decide
theorem test_wellFormed_refuses_index : Instr.wellFormed (.readReg 0x0F#8) = false := by decide
theorem test_wellFormed_accepts :
    ([.setTrim 0x81#8, .setTrim 0x7F#8, .startInterval 1#16, .readReg 0x0E#8, .retire 0#16] : List Instr).all
      Instr.wellFormed = true := by decide

/-! ## One step -/

/-- The state of the vectors' conventions, in another configuration. -/
def at16 : State := State.resetWith { W := 16, BASE := 250#16 }

/-- One step with the word `w` issued by `a`. -/
def one (a : Agent) (w : Word) (s : State) : Result := step { s with inbox := [⟨a, w⟩] }

/-- A view of the next state, if there is one. -/
def look {α : Type} (f : State → α) : Result → Option α
  | .next t => some (f t)
  | .fault _ => none
  | .refused _ => none

/-- The results' values, oldest first. -/
def values (s : State) : List Word := s.results.map Reply.value

/-- V2: the 8-bit counter wraps. -/
theorem test_recordTick_wraps :
    look (fun t => (values t, t.acc)) (one .tick 0x01000000#32 { State.reset with acc := ⟨255#16, 0#16⟩ }) =
      some ([0#32], ⟨0#16, 0#16⟩) := by decide

/-- V3: the 16-bit counter wraps. -/
theorem test_recordTick_wraps_16 :
    look (fun t => t.acc.eventCount) (one .tick 0x01000000#32 { at16 with acc := ⟨65535#16, 0#16⟩ }) = some 0#16 := by
  decide

/-- V4. -/
theorem test_pendingTicks_across_the_wrap :
    look values (one .consumer 0x10000000#32 { State.reset with acc := ⟨4#16, 250#16⟩ }) = some [10#32] := by decide

/-- V6: the largest value. -/
theorem test_pendingTicks_largest :
    look values (one .consumer 0x10000000#32 { State.reset with acc := ⟨249#16, 250#16⟩ }) = some [255#32] := by decide

/-- V10: the operand is not clamped and not truncated before the sum. -/
theorem test_retire_past_the_width :
    look (fun t => (values t, t.acc)) (one .consumer 0x1100012C#32 State.reset) = some ([0#32], ⟨0#16, 44#16⟩) := by decide

/-- V12. -/
theorem test_retire_16 :
    look (fun t => t.acc.retiredCount) (one .consumer 0x1100FFFF#32 { at16 with acc := ⟨0#16, 1#16⟩ }) = some 0#16 := by
  decide

/-- V13. -/
theorem test_retireAll :
    look (fun t => (values t, t.acc)) (one .consumer 0x12000000#32 { State.reset with acc := ⟨7#16, 2#16⟩ }) =
      some ([0#32], ⟨7#16, 7#16⟩) := by decide

/-- V21. -/
theorem test_setTrim_negative :
    look (fun t => (values t, t.trim)) (one .consumer 0x20000081#32 State.reset) =
      some ([0#32], ⟨127#7, true, 0#7, true⟩) := by decide

/-- V23: disabling clears the cycle. -/
theorem test_setTrim_off :
    look (fun t => t.trim) (one .consumer 0x20000000#32 { State.reset with trim := ⟨3#7, true, 2#7, false⟩ }) =
      some ⟨0#7, false, 0#7, false⟩ := by decide

/-- V25: the last reload of the active half is still adjusted. -/
theorem test_nextReload_at_the_threshold :
    look (fun t => (values t, t.trim)) (one .tick 0x02000000#32 { State.reset with trim := ⟨3#7, false, 2#7, true⟩ }) =
      some ([251#32], ⟨3#7, false, 0#7, false⟩) := by decide

/-- V27: the smallest base with a negative trim. -/
theorem test_nextReload_smallest :
    look values (one .tick 0x02000000#32
      { State.resetWith { W := 8, BASE := 1#16 } with trim := ⟨1#7, true, 0#7, true⟩ }) = some [0#32] := by decide

/-- V42: two rollovers in one command. -/
theorem test_clockAdvance_two_rollovers :
    look (fun t => (values t, t.clock)) (one .consumer 0x3000FFFF#32 { State.reset with clock := ⟨59999#16, 0#16⟩ }) =
      some ([0#32], ⟨5534#16, 2#16⟩) := by decide

/-- V43: the minutes wrap. -/
theorem test_clockAdvance_wraps :
    look (fun t => t.clock) (one .consumer 0x30000001#32 { State.reset with clock := ⟨59999#16, 65535#16⟩ }) =
      some ⟨0#16, 0#16⟩ := by decide

/-- V45. -/
theorem test_clockUpdate :
    look (fun t => (values t, t.acc, t.clock))
      (one .consumer 0x31000000#32 { State.reset with acc := ⟨4#16, 250#16⟩, clock := ⟨59995#16, 0#16⟩ }) =
      some ([10#32], ⟨4#16, 4#16⟩, ⟨5#16, 1#16⟩) := by decide

/-- V47: the deadline wraps. -/
theorem test_startInterval_wraps :
    look (fun t => (values t, t.alarm)) (one .consumer 0x320003E8#32 { State.reset with clock := ⟨59500#16, 0#16⟩ }) =
      some ([0#32], ⟨1000#16, 500#16⟩) := by decide

/-- V49: an interval longer than the bound. -/
theorem test_startInterval_long :
    look (fun t => t.alarm) (one .consumer 0x3200FFFF#32 { State.reset with clock := ⟨100#16, 0#16⟩ }) =
      some ⟨65535#16, 5635#16⟩ := by decide

/-- V54: the last millisecond of the window. -/
theorem test_intervalElapsed_last :
    look values (one .consumer 0x33000000#32
      { State.reset with clock := ⟨1499#16, 0#16⟩, alarm := ⟨1000#16, 500#16⟩ }) = some [1#32] := by decide

/-- V52: before the deadline the residue is large. -/
theorem test_intervalElapsed_before :
    look values (one .consumer 0x33000000#32
      { State.reset with clock := ⟨499#16, 0#16⟩, alarm := ⟨1000#16, 500#16⟩ }) = some [0#32] := by decide

/-- V56: across the minute rollover. -/
theorem test_consumeInterval_across_the_rollover :
    look (fun t => (values t, t.alarm)) (one .consumer 0x34000000#32
      { State.reset with clock := ⟨200#16, 0#16⟩, alarm := ⟨1000#16, 59800#16⟩ }) =
      some ([1#32], ⟨1000#16, 800#16⟩) := by decide

/-- V57: the deadline moves modulo another bound. -/
theorem test_consumeInterval_other_bound :
    look (fun t => (values t, t.alarm)) (one .consumer 0x34000000#32
      { State.resetWith { W := 8, BASE := 250#16, R := 1000#16 } with alarm := ⟨1500#16, 200#16⟩ }) =
      some ([1#32], ⟨1500#16, 700#16⟩) := by decide

/-- V76: a press and a rotation in one update. -/
theorem test_qdUpdate_press_and_rotation :
    look (fun t => (values t, t.button, t.quad))
      (one .consumer 0x40000005#32 { State.reset with button := ⟨0x7F#8, .released, 0#8, 0#8⟩ }) =
      some ([0x09#32], ⟨0xFF#8, .pressed, 0#8, 0#8⟩, ⟨0b0001#4, 1#8⟩) := by decide

/-- V81: the hold count saturates. -/
theorem test_qdUpdate_hold_saturates :
    look (fun t => (values t, t.button))
      (one .consumer 0x40000004#32 { State.reset with button := ⟨0xFF#8, .pressed, 255#8, 19#8⟩ }) =
      some ([0x40#32], ⟨0xFF#8, .pressed, 255#8, 0#8⟩) := by decide

/-- V90: a negative rotation count is zero-extended. -/
theorem test_readReg_rotation :
    look values (one .consumer 0x5000000E#32 { State.reset with quad := ⟨0#4, BitVec.ofInt 8 (-1)⟩ }) =
      some [0x000000FF#32] := by decide

/-- V30, V31: the packed trim views. -/
theorem test_readReg_trim :
    (look values (one .consumer 0x50000003#32 { State.reset with trim := ⟨3#7, true, 0#7, true⟩ }),
      look values (one .consumer 0x50000004#32 { State.reset with trim := ⟨3#7, true, 0#7, true⟩ })) =
      (some [0x83#32], some [0x80#32]) := by decide

/-! ## Operations -/

/-- L1.6: the change of `rotationCount` of each of the 16 patterns. -/
theorem test_rotation_table :
    (List.range 16).map (fun n => (rotationOf (BitVec.ofNat 4 n)).delta) =
      [0, 1, -1, 0, -1, 0, 0, 1, 1, 0, 0, -1, 0, -1, 1, 0] := by decide

/-- V71 to V74: the ends of the rotation count. -/
theorem test_rotation_ends :
    [rotated .wrap 127#8 1, rotated .saturate 127#8 1, rotated .wrap (BitVec.ofInt 8 (-128)) (-1),
      rotated .saturate (BitVec.ofInt 8 (-128)) (-1)] =
      [BitVec.ofInt 8 (-128), 127#8, 127#8, BitVec.ofInt 8 (-128)] := by decide

/-- R17: the residue of a negative number. -/
theorem test_residue : [residue (-246) 256, residue (-1) 60000, residue 59999 1000] = [10, 59999, 999] := by decide

/-! ## Refusals -/

/-- V100 to V108: the reason of each refused word. -/
theorem test_refused_words :
    ([(.tick, 0x00000000#32), (.consumer, 0x3F000000#32), (.consumer, 0x10000001#32), (.consumer, 0x11010005#32),
      (.consumer, 0x20000100#32), (.tick, 0x10000000#32), (.consumer, 0x01000000#32), (.tick, 0x10FF0000#32),
      (.tick, 0x20FF0080#32)] : List (Agent × Word)).map (fun x => look State.refusal (one x.1 x.2 State.reset)) =
    [some (some .illegalOpcode), some (some .illegalOpcode), some (some .reservedBits), some (some .reservedBits),
     some (some .reservedBits), some (some .wrongAgent), some (some .wrongAgent), some (some .reservedBits),
     some (some .reservedBits)] := by decide

/-- V22, V48, V50, V51, V95, V96: the reason of each refused operand. -/
theorem test_refused_operands :
    ([0x20000080#32, 0x32000000#32, 0x33000000#32, 0x34000000#32, 0x5000000F#32, 0x500000FF#32] : List Word).map
      (fun w => look State.refusal (one .consumer w State.reset)) =
    [some (some .reservedOperand), some (some .zeroInterval), some (some .noInterval), some (some .noInterval),
     some (some .reservedIndex), some (some .reservedIndex)] := by decide

/-- P7, V22: a refused command changes no element and returns nothing. -/
theorem test_refused_changes_nothing :
    one .consumer 0x20000080#32 State.reset = .next { State.reset with refusal := some .reservedOperand } := rfl

/-! ## Reset, the configuration, the host's two entries -/

theorem reset_inv : State.reset.Inv := by decide

theorem test_legal_ends :
    ([{ W := 8, BASE := 1#16 }, { W := 16, BASE := 65534#16, R := 1#16, UI_DIV := 1#8, INIT_MS := 59999#16 },
      { W := 8, BASE := 250#16, R := 65535#16, UI_DIV := 255#8 }] : List Config).all Config.legal = true := by decide

theorem test_illegal_parameters :
    ([{ W := 12, BASE := 250#16 }, { W := 8, BASE := 0#16 }, { W := 8, BASE := 65535#16 },
      { W := 8, BASE := 250#16, R := 0#16 }, { W := 8, BASE := 250#16, UI_DIV := 0#8 },
      { W := 8, BASE := 250#16, INIT_MS := 60000#16 }] : List Config).any Config.legal = false := by decide

/-- R240: `INIT_INTERVAL` arms the alarm at reset, modulo `R`. -/
theorem test_reset_interval :
    (State.resetWith { W := 8, BASE := 250#16, INIT_MS := 59500#16, INIT_INTERVAL := 1000#16 }).alarm =
      ⟨1000#16, 500#16⟩ := by decide

theorem test_withFetchWord :
    look (fun t => t.clock.milliseconds) (step (State.reset.withFetchWord 32 0x30000005)) = some 5#16 := by decide

theorem test_withFetchWord_tick :
    look (fun t => t.acc.eventCount) (step (State.reset.withFetchWord 32 0x01000000)) = some 1#16 := by decide

/-! ## The assembler, R89 and R90 -/

theorem test_assemble_bounds :
    ([assembleLine "SET_TRIM -127", assembleLine "RETIRE 0xFFFF", assembleLine "READ_REG 255"] : List (Option Line)) =
      [some (.commands [⟨.consumer, 0x20000081#32⟩]), some (.commands [⟨.consumer, 0x1100FFFF#32⟩]),
       some (.commands [⟨.consumer, 0x500000FF#32⟩])] := by decide

theorem test_assemble_refuses :
    ([assembleLine "RETIRE 65536", assembleLine "QD_UPDATE 2, 0", assembleLine "NOP", assembleLine "RETIRE",
      assembleLine "SET_TRIM 128"] : List (Option Line)) = [none, none, none, none, none] := by decide

theorem test_assemble_poll : assembleLine "POLL" = some .poll ∧
    (pollCommands 5#16).map Command.word = [0x10000000#32, 0x11000005#32, 0x30000005#32] := by decide

/-! ## Witnesses: the hypotheses of each obligation can be met -/

/-- `State.reset` when the tick agent issues. -/
def atTick : State := { State.reset with issuer := .tick }

/-- `State.reset` with one command waiting. -/
def waiting (a : Agent) (w : Word) : State := { State.reset with inbox := [⟨a, w⟩] }

theorem witness_EachCommandHasOneWord :
    decode 0x1100FFFF#32 = .ok (.retire 0xFFFF#16) ∧ decode 0x40000007#32 = .ok (.qdUpdate true 0b11#2) ∧
      decode 0x500000FF#32 = .ok (.readReg 0xFF#8) := by decide

theorem witness_DecodingRefusesOpcodeThenReservedBits :
    (0x00FFFFFF#32).extractLsb' 24 8 ∉ [0x01#8, 0x02#8, 0x10#8, 0x11#8, 0x12#8, 0x20#8, 0x30#8, 0x31#8, 0x32#8, 0x33#8,
      0x34#8, 0x40#8, 0x50#8] ∧
    ((0x40000008#32).extractLsb' 24 8 = 0x40#8 ∧ 0x40000008#32 &&& 0x00FFFFF8#32 ≠ 0#32) ∧
    ((0x40000007#32).extractLsb' 24 8 = 0x40#8 ∧ 0x40000007#32 &&& 0x00FFFFF8#32 = 0#32) := by decide

theorem witness_StepAppliesTheFrontCommand :
    (waiting .tick 0x01000000#32).cfg.legal = true ∧
      (waiting .tick 0x01000000#32).inbox = [⟨.tick, 0x01000000#32⟩] ∧ decode 0x01000000#32 = .ok .recordTick := by decide

theorem witness_StepRefusesAWordThatDoesNotDecode :
    (waiting .tick 0x10FF0000#32).cfg.legal = true ∧
      (waiting .tick 0x10FF0000#32).inbox = [⟨.tick, 0x10FF0000#32⟩] ∧
      decode 0x10FF0000#32 = .error .reservedBits ∧ decode 0xFF000000#32 = .error .illegalOpcode := by decide

theorem witness_BlockHoldsItsStateBetweenCommands : State.reset.cfg.legal = true ∧ State.reset.inbox = [] := by decide

/-- Both clauses, at the ends of `BASE`. -/
theorem witness_StepRunsExactlyForLegalConfigurations :
    ((Config.mk 8 65534#16 1#16 1#8 .wrap 59999#16 0#16).W = 8 ∧
      (Config.mk 8 65534#16 1#16 1#8 .wrap 59999#16 0#16).BASE.toNat ≤ 65534 ∧
      1 ≤ (Config.mk 8 65534#16 1#16 1#8 .wrap 59999#16 0#16).R.toNat ∧
      1 ≤ (Config.mk 8 65534#16 1#16 1#8 .wrap 59999#16 0#16).UI_DIV.toNat ∧
      (Config.mk 8 65534#16 1#16 1#8 .wrap 59999#16 0#16).INIT_MS.toNat ≤ 59999) ∧
    ¬ (Config.mk 8 65535#16 1#16 1#8 .wrap 59999#16 0#16).BASE.toNat ≤ 65534 := by decide

theorem witness_CommandOfTheOtherAgentIsRefused :
    (State.reset.issuer = .consumer ∧ (Instr.nextReload = .recordTick ∨ Instr.nextReload = .nextReload)) ∧
      (atTick.issuer = .tick ∧ Instr.setTrim 0x80#8 ≠ .recordTick ∧ Instr.setTrim 0x80#8 ≠ .nextReload) := by decide

theorem witness_OperandRefusalsAndTheirCodes :
    State.reset.issuer = .consumer ∧ State.reset.alarm.intervalLength = 0#16 ∧ 0x0E < (0x0F#8).toNat ∧
      0x0E < (0xFF#8).toNat := by decide

/-- A legal state with a command waiting and the mark already set. -/
theorem witness_CommandIsDoneOrRefused :
    (waiting .consumer 0x20000080#32).cfg.legal = true ∧
      (waiting .consumer 0x20000080#32).inbox = ⟨.consumer, 0x20000080#32⟩ :: [] ∧
      { waiting .consumer 0x20000080#32 with refusal := some .wrongAgent }.refusal ≠ none := by decide

theorem witness_RefusalChangesOnlyTheMark :
    ∃ t, exec (.setTrim 0x80#8) State.reset = .next t ∧ t.results = State.reset.results := ⟨_, rfl, rfl⟩

theorem witness_CommandsWaitingAreNotRead :
    ∃ t, step { State.reset with inbox := ⟨.tick, 0x02000000#32⟩ :: [⟨.consumer, 0x20000001#32⟩] } = .next t := ⟨_, rfl⟩

theorem witness_StepKeepsTheElementRanges :
    (waiting .consumer 0x20000081#32).Inv ∧ ∃ t, step (waiting .consumer 0x20000081#32) = .next t :=
  ⟨by decide, _, rfl⟩

theorem witness_ResetMeetsTheElementRanges :
    Config.legal { W := 16, BASE := 65534#16, R := 1#16, UI_DIV := 1#8, INIT_MS := 59999#16, INIT_INTERVAL := 7#16 } =
      true := by decide

theorem witness_ResetStateIsAsListed :
    (1000#16 : Half) ≠ 0#16 ∧ 1 ≤ Config.standard.R.toNat ∧ Config.standard.INIT_INTERVAL = 0#16 := by decide

/-- Each clause: a step in which the element changes. -/
theorem witness_ElementsChangeOnlyByTheirWriters :
    (∃ t, step (waiting .tick 0x01000000#32) = .next t ∧ t.acc.eventCount ≠ State.reset.acc.eventCount) ∧
    (∃ t, step (waiting .consumer 0x1100FFFF#32) = .next t ∧ t.acc.retiredCount ≠ State.reset.acc.retiredCount) ∧
    (∃ t, step (waiting .consumer 0x20000081#32) = .next t ∧ t.trim.trimNeg ≠ State.reset.trim.trimNeg ∧
      t.trim.trimActive ≠ State.reset.trim.trimActive) ∧
    (∃ t, step (waiting .consumer 0x30000001#32) = .next t ∧ t.clock ≠ State.reset.clock) ∧
    (∃ t, step (waiting .consumer 0x32000001#32) = .next t ∧
      t.alarm.intervalLength ≠ State.reset.alarm.intervalLength ∧
      t.alarm.nextIntervalDeadline ≠ State.reset.alarm.nextIntervalDeadline) ∧
    (∃ t, step (waiting .consumer 0x40000005#32) = .next t ∧ t.button ≠ State.reset.button ∧
      t.quad ≠ State.reset.quad) :=
  ⟨⟨_, rfl, by decide⟩, ⟨_, rfl, by decide⟩, ⟨_, rfl, by decide⟩, ⟨_, rfl, by decide⟩, ⟨_, rfl, by decide⟩,
    ⟨_, rfl, by decide⟩⟩

theorem witness_ReadsRepeatAndTwoWritesAreIdempotent :
    State.reset.issuer = .consumer ∧ (∃ t, exec .pendingTicks State.reset = .next t) ∧
      (∃ t, exec .intervalElapsed State.reset = .next t) ∧ (∃ t, exec (.readReg 0x0E#8) State.reset = .next t) ∧
      (∃ t, exec .retireAll State.reset = .next t) ∧ (∃ t, exec (.setTrim 0x7F#8) State.reset = .next t) :=
  ⟨rfl, ⟨_, rfl⟩, ⟨_, rfl⟩, ⟨_, rfl⟩, ⟨_, rfl⟩, ⟨_, rfl⟩⟩

theorem witness_DebouncerIsIndependent :
    ((∀ x y, Instr.clockUpdate ≠ .qdUpdate x y) ∧ (∀ r, Instr.clockUpdate ≠ .readReg r) ∧
      ∃ t, exec .clockUpdate State.reset = .next t) ∧ ∃ t, exec (.qdUpdate true 0b01#2) State.reset = .next t :=
  ⟨⟨fun _ _ h => (nomatch h), fun _ h => (nomatch h), _, rfl⟩, _, rfl⟩

/-- The premises of the refusal clauses of the command statements: a word with a reserved bit, and both issuers. -/
theorem witness_refusal_clauses :
    ((0x1000FFFF#32).extractLsb' 24 8 = 0x10#8 ∧ 0x1000FFFF#32 &&& 0x00FFFFFF#32 ≠ 0#32) ∧
      ((0x1101FFFF#32).extractLsb' 24 8 = 0x11#8 ∧ 0x1101FFFF#32 &&& 0x00FF0000#32 ≠ 0#32) ∧
      ((0x20000100#32).extractLsb' 24 8 = 0x20#8 ∧ 0x20000100#32 &&& 0x00FFFF00#32 ≠ 0#32) ∧
      State.reset.issuer = .consumer ∧ atTick.issuer = .tick := by decide

theorem witness_RecordTickCountsOneTick : atTick.issuer = .tick ∧ atTick.cfg.legal = true := by decide

theorem witness_PendingTicksReturnsTheDifference : State.reset.issuer = .consumer ∧ State.reset.cfg.legal = true := by
  decide

theorem witness_RetireAdvancesTheRetireCounter : State.reset.issuer = .consumer ∧ at16.cfg.legal = true := by decide

theorem witness_RetireAllConsumesEverythingPending : State.reset.issuer = .consumer := by decide

/-- Counters equal at the top of their range, and commands of each kind allowed. -/
theorem witness_PendingTicksCountsTheTicksModuloTheWidth :
    let s := { State.reset with acc := ⟨255#16, 255#16⟩ }
    s.cfg.legal = true ∧ s.acc.retiredCount = s.acc.eventCount ∧
      ∀ c ∈ ([⟨.tick, 0x01000000#32⟩, ⟨.tick, 0x02000000#32⟩, ⟨.consumer, 0x20000080#32⟩] : List Command),
        (∀ n, decode c.word ≠ .ok (.retire n)) ∧ decode c.word ≠ .ok .retireAll ∧ decode c.word ≠ .ok .clockUpdate := by
  refine ⟨by decide, rfl, fun c hc => ⟨fun n hn => ?_, ?_⟩⟩
  · simp only [List.mem_cons, List.not_mem_nil, or_false] at hc
    rcases hc with rfl | rfl | rfl <;> exact nomatch hn
  · simp only [List.mem_cons, List.not_mem_nil, or_false] at hc
    rcases hc with rfl | rfl | rfl <;> exact ⟨by decide, by decide⟩

theorem witness_RetiringWhatWasReadLeavesTheLateTicks : at16.cfg.legal = true := by decide

theorem witness_SetTrimRestartsTheCycle : State.reset.issuer = .consumer ∧ (0x81#8 : Byte) ≠ 0x80#8 := by decide

/-- Each clause: trimming off, the threshold reached, and the threshold not reached. -/
theorem witness_NextReloadReturnsTheAdjustedBase :
    (atTick.issuer = .tick ∧ atTick.Inv ∧ atTick.trim.trimMag = 0#7) ∧
    ({ atTick with trim := ⟨127#7, true, 126#7, true⟩ }.Inv ∧ (127#7 : BitVec 7) ≠ 0#7 ∧
      (126#7 : BitVec 7).toNat + 1 = (127#7 : BitVec 7).toNat) ∧
    ({ atTick with trim := ⟨127#7, true, 125#7, false⟩ }.Inv ∧
      (125#7 : BitVec 7).toNat + 1 ≠ (127#7 : BitVec 7).toNat) := by decide

theorem witness_ReloadsArePeriodicAfterSetTrim :
    State.reset.cfg.legal = true ∧ (0x81#8 : Byte) ≠ 0x80#8 ∧ (0x81#8 : Byte) ≠ 0#8 := by decide

/-- Both cases of the conclusion: a whole period of a trim of 1, and trimming off. -/
theorem witness_ReloadsSumExactlyOverAPeriod :
    let cmds : List Command := [⟨.tick, 0x02000000#32⟩, ⟨.tick, 0x01000000#32⟩, ⟨.tick, 0x02000000#32⟩]
    { State.reset with trim := ⟨1#7, true, 0#7, false⟩ }.Inv ∧
      (∀ c ∈ cmds, ∀ k, decode c.word ≠ .ok (.setTrim k)) ∧
      cmds.count ⟨.tick, 0x02000000#32⟩ = 2 * (1#7 : BitVec 7).toNat ∧ State.reset.trim.trimMag = 0#7 := by
  refine ⟨by decide, fun c hc k hk => ?_, by decide, rfl⟩
  simp only [List.mem_cons, List.not_mem_nil, or_false] at hc
  rcases hc with rfl | rfl | rfl <;> exact nomatch hk

theorem witness_ReloadIsWithinOneOfTheBase : atTick.issuer = .tick ∧ atTick.cfg.legal = true := by decide

theorem witness_TickCommandsCommute : State.reset.cfg.legal = true := by decide

theorem witness_ClockAdvanceIsExact : State.reset.issuer = .consumer := by decide

theorem witness_ClockAdvanceIsTheRolloverLoop :
    let s := { State.reset with clock := ⟨59999#16, 65535#16⟩, inbox := [⟨.consumer, 0x3000FFFF#32⟩] }
    s.issuer = .consumer ∧ s.clock.InRange ∧ ∃ t, step s = .next t :=
  ⟨rfl, by decide, _, rfl⟩

theorem witness_ClockUpdateConsumesThePendingTicks :
    let s := { State.reset with acc := ⟨255#16, 0#16⟩ }
    s.issuer = .consumer ∧ s.cfg.legal = true ∧ s.acc.InRange s.cfg.W := by decide

theorem witness_StartIntervalArmsTheDeadline :
    State.reset.issuer = .consumer ∧ State.reset.cfg.legal = true ∧ (1#16 : Half) ≠ 0#16 := by decide

/-- The two clauses. -/
theorem witness_IntervalElapsedComparesTheResidue :
    State.reset.issuer = .consumer ∧ State.reset.cfg.legal = true ∧ State.reset.alarm.intervalLength = 0#16 ∧
      { State.reset with alarm := ⟨1#16, 0#16⟩ }.alarm.intervalLength ≠ 0#16 := by decide

/-- The three clauses, with the residue at the last millisecond of the window and at the first after it. -/
theorem witness_ConsumeIntervalMovesTheDeadline :
    State.reset.issuer = .consumer ∧ State.reset.cfg.legal = true ∧ State.reset.alarm.intervalLength = 0#16 ∧
      (((1499#16 : Half).toNat : Int) - (500#16 : Half).toNat) % State.reset.cfg.R.toNat < (1000#16 : Half).toNat ∧
      ¬ (((1500#16 : Half).toNat : Int) - (500#16 : Half).toNat) % State.reset.cfg.R.toNat < (1000#16 : Half).toNat := by
  decide

theorem witness_TimeSinceDeadlineFollowsTheClock :
    let s := { State.reset with clock := ⟨59999#16, 0#16⟩ }
    s.issuer = .consumer ∧ s.cfg.legal = true ∧ s.clock.InRange ∧ s.cfg.R = 60000#16 := by decide

/-- V53 and L1.5: an elapsed interval of at most half the bound. -/
theorem witness_ConsumeIsIdempotentWithinItsWindow :
    let s := { State.reset with clock := ⟨1500#16, 0#16⟩, alarm := ⟨30000#16, 1500#16⟩ }
    s.Inv ∧ s.issuer = .consumer ∧ 0 < s.alarm.intervalLength.toNat ∧ s.alarm.intervalLength.toNat < s.cfg.R.toNat ∧
      s.alarm.sinceDeadline s.cfg.R.toNat s.clock.milliseconds < s.alarm.intervalLength.toNat ∧
      2 * s.alarm.intervalLength.toNat ≤ s.cfg.R.toNat := by decide

/-- V55: a missed window; the residues after advances to the last millisecond outside the window and the first inside
it, with `R = 60000`. -/
theorem witness_MissedWindowStaysMissedUntilTheClockComesRound :
    let s := { State.reset with clock := ⟨1500#16, 0#16⟩, alarm := ⟨1000#16, 500#16⟩ }
    let d := s.alarm.sinceDeadline s.cfg.R.toNat s.clock.milliseconds
    s.Inv ∧ s.issuer = .consumer ∧ s.cfg.R = 60000#16 ∧ 0 < s.alarm.intervalLength.toNat ∧
      s.alarm.intervalLength.toNat < s.cfg.R.toNat ∧ s.alarm.intervalLength.toNat ≤ d ∧
      look (fun t => decide (s.alarm.intervalLength.toNat ≤ t.alarm.sinceDeadline 60000 t.clock.milliseconds))
        (runCommands [(Instr.clockAdvance 58000#16).issued, (Instr.clockAdvance 999#16).issued] s) = some true ∧
      look (fun t => decide (t.alarm.sinceDeadline 60000 t.clock.milliseconds < s.alarm.intervalLength.toNat))
        (runCommands [(Instr.clockAdvance 58000#16).issued, (Instr.clockAdvance 1000#16).issued] s) = some true := by
  decide

theorem witness_IntervalOfAtLeastTheBoundIsAlwaysElapsed :
    let s := { State.reset with alarm := ⟨60000#16, 0#16⟩ }
    s.issuer = .consumer ∧ s.cfg.legal = true ∧ s.cfg.R.toNat ≤ s.alarm.intervalLength.toNat := by decide

theorem witness_PollEndsWhereClockUpdateDoes : { State.reset with acc := ⟨4#16, 250#16⟩ }.Inv := by decide

theorem witness_RetireAllAfterAReadLosesTheLateTicks : { State.reset with acc := ⟨5#16, 0#16⟩ }.Inv := by decide

theorem witness_QdUpdateComposesTwoIndependentSubmachines : State.reset.issuer = .consumer := by decide

/-- The premises, and each clause: a press, a release, the divider at its last value below and at saturation, and the
divider below it. -/
theorem witness_QdUpdateDebouncesTheButton :
    State.reset.issuer = .consumer ∧ State.reset.button.InRange State.reset.cfg.UI_DIV.toNat ∧
      shiftedHistory 0x7F#8 true = 0xFF#8 ∧ shiftedHistory 0x80#8 false = 0x00#8 ∧
      (19#8 : Byte).toNat + 1 = State.reset.cfg.UI_DIV.toNat ∧ (254#8 : Byte).toNat < 255 ∧ ¬ (255#8 : Byte).toNat < 255 ∧
      (18#8 : Byte).toNat + 1 ≠ State.reset.cfg.UI_DIV.toNat := by decide

theorem witness_QdUpdateDecodesTheRotation :
    State.reset.issuer = .consumer ∧ State.reset.cfg.ROT_MODE = .wrap ∧
      (State.resetWith { W := 8, BASE := 250#16, ROT_MODE := .saturate }).cfg.ROT_MODE = .saturate ∧
      shiftedWindow 0b0001#4 0b11#2 ∈ [0b0001#4, 0b0111#4, 0b1000#4, 0b1110#4] ∧
      shiftedWindow 0b0010#4 0b11#2 ∈ [0b0010#4, 0b0100#4, 0b1011#4, 0b1101#4] := by decide

/-- From reset, with the samples of L1.6: no PRESS and no RELEASE is reported. -/
theorem witness_HoldCountIsTheQuotientOfTheUpdates :
    State.reset.cfg.legal = true ∧ State.reset.button.holdCount = 0#8 ∧ State.reset.button.holdDiv = 0#8 ∧
      look (fun t => (values t).all fun v => !v.getLsbD 3 && !v.getLsbD 4)
        (runCommands (sampleCommands [(false, 0b01#2), (true, 0b11#2)]) State.reset) = some true := by decide

/-- L1.7: each of the three kinds of samples. -/
theorem witness_DebounceNeedsEightEqualSamples :
    State.reset.cfg.legal = true ∧ State.reset.button.btnState = .released ∧ State.reset.button.btnShift = 0x00#8 ∧
      (∀ x ∈ List.replicate 8 (true, 0b00#2), x.1 = true) ∧
      [(true, 0b00#2), (false, 0b00#2), (true, 0b00#2)].map Prod.fst = (List.range 3).map (fun j => j % 2 == 0) ∧
      ∀ w : List (Bool × BitVec 2), w <:+: List.replicate 7 (true, 0b00#2) → w.length = 8 → ∃ x ∈ w, x.1 = false := by
  refine ⟨by decide, rfl, rfl, by decide, by decide, fun w hw hl => ?_⟩
  have := hw.length_le
  simp only [List.length_replicate] at this
  omega

theorem witness_CoincidentEventsAreLimited : State.reset.issuer = .consumer := by decide

/-- A settled state whose next step flips the button and turns the encoder. -/
theorem witness_ButtonFlipsOnlyOnASaturatedHistory :
    let s := { waiting .consumer 0x40000005#32 with button := ⟨0x7F#8, .released, 0#8, 0#8⟩ }
    s.button.Settled ∧ ∃ t, step s = .next t ∧ t.button.btnState ≠ s.button.btnState ∧
      t.quad.rotationCount ≠ s.quad.rotationCount :=
  ⟨by decide, _, rfl, by decide⟩

theorem witness_FirstCommandsAfterReset : Config.standard.legal = true := by decide

/-- A register, and an index that names none. -/
theorem witness_ReadRegReturnsTheIndexedView : State.reset.issuer = .consumer ∧ 0x0E < (0x0F#8).toNat := by decide

end Sys2Proof.Tests.Slice0
end

/-! ## A command as one equation

Whether a command is refused and, if not, what it returns is said once, by `answer`; `effect` says what it leaves. -/

namespace Sys2Proof.Machine

variable {s t : State} {i : Instr}

/-- Checks 3 and 4 of R87 and, for a command that passes both, its result. -/
def answer (i : Instr) (s : State) : Except RefusalReason Word :=
  if s.issuer = i.owner then
    match i with
    | .recordTick => .ok 0#32
    | .nextReload => .ok (BitVec.ofInt 32 (s.trim.reload s.cfg.BASE))
    | .pendingTicks => .ok (BitVec.ofNat 32 (s.acc.pending s.cfg.W))
    | .retire _ => .ok 0#32
    | .retireAll => .ok 0#32
    | .setTrim k => if k = 0x80#8 then .error .reservedOperand else .ok 0#32
    | .clockAdvance _ => .ok 0#32
    | .clockUpdate => .ok (BitVec.ofNat 32 (s.acc.pending s.cfg.W))
    | .startInterval n => if n = 0#16 then .error .zeroInterval else .ok 0#32
    | .intervalElapsed =>
      if s.alarm.intervalLength = 0#16 then .error .noInterval
      else .ok (boolResult (s.alarm.elapsed s.cfg.R.toNat s.clock.milliseconds))
    | .consumeInterval =>
      if s.alarm.intervalLength = 0#16 then .error .noInterval
      else .ok (boolResult (s.alarm.elapsed s.cfg.R.toNat s.clock.milliseconds))
    | .qdUpdate b q => .ok ((s.button.step s.cfg.UI_DIV.toNat b).2 ||| (s.quad.step s.cfg.ROT_MODE q).2)
    | .readReg x => (regOperand x).map (view · s)
  else .error .wrongAgent

/-- The state a command leaves, refused or done (R18). -/
def outcome (i : Instr) (s : State) : State :=
  match answer i s with
  | .ok v => (effect i s).reply v
  | .error r => s.refuse r

theorem outcome_of_ok {v : Word} (h : answer i s = .ok v) : outcome i s = (effect i s).reply v := by
  simp only [outcome, h]

theorem outcome_of_error {r : RefusalReason} (h : answer i s = .error r) : outcome i s = s.refuse r := by
  simp only [outcome, h]

theorem answer_of_wrongAgent (h : s.issuer ≠ i.owner) : answer i s = .error .wrongAgent := if_neg h

/-- The one equation of the commands: `exec` answers `outcome`. -/
theorem exec_eq_outcome (i : Instr) (s : State) : exec i s = .next (outcome i s) := by
  by_cases ho : s.issuer = i.owner
  swap
  · rw [exec_of_wrongAgent ho, outcome_of_error (answer_of_wrongAgent ho)]
  have doneBy {v : Word} (ha : answer i s = .ok v) (he : exec i s = .next ((effect i s).reply v)) :
      exec i s = .next (outcome i s) := by rw [he, outcome_of_ok ha]
  have refusedBy {r : RefusalReason} (ha : answer i s = .error r) (he : exec i s = .next (s.refuse r)) :
      exec i s = .next (outcome i s) := by rw [he, outcome_of_error ha]
  cases i with
  | recordTick => exact doneBy (if_pos ho) (exec_recordTick ho)
  | nextReload => exact doneBy (if_pos ho) (exec_nextReload ho)
  | pendingTicks => exact doneBy (if_pos ho) (exec_pendingTicks ho)
  | retire n => exact doneBy (if_pos ho) (exec_retire n ho)
  | retireAll => exact doneBy (if_pos ho) (exec_retireAll ho)
  | setTrim k =>
    by_cases hk : k = 0x80#8
    · subst hk
      exact refusedBy (if_pos ho) (exec_setTrim_reserved ho)
    · exact doneBy ((if_pos ho).trans (if_neg hk)) (exec_setTrim hk ho)
  | clockAdvance n => exact doneBy (if_pos ho) (exec_clockAdvance n ho)
  | clockUpdate => exact doneBy (if_pos ho) (exec_clockUpdate ho)
  | startInterval n =>
    by_cases hn : n = 0#16
    · subst hn
      exact refusedBy (if_pos ho) (exec_startInterval_zero ho)
    · exact doneBy ((if_pos ho).trans (if_neg hn)) (exec_startInterval hn ho)
  | intervalElapsed =>
    by_cases hl : s.alarm.intervalLength = 0#16
    · exact refusedBy ((if_pos ho).trans (if_pos hl)) (exec_intervalElapsed_unarmed hl ho)
    · exact doneBy ((if_pos ho).trans (if_neg hl)) (exec_intervalElapsed hl ho)
  | consumeInterval =>
    by_cases hl : s.alarm.intervalLength = 0#16
    · exact refusedBy ((if_pos ho).trans (if_pos hl)) (exec_consumeInterval_unarmed hl ho)
    · refine doneBy ((if_pos ho).trans (if_neg hl)) ?_
      by_cases he : s.alarm.elapsed s.cfg.R.toNat s.clock.milliseconds = true
      · rw [exec_consumeInterval_of_elapsed hl he ho]
        simp only [effect, he, if_true, boolResult]
      · rw [exec_consumeInterval_of_not_elapsed hl he ho]
        simp only [effect, he, if_false, Bool.false_eq_true, boolResult]
  | qdUpdate b q => exact doneBy (if_pos ho) (exec_qdUpdate b q ho)
  | readReg x =>
    cases hr : regOperand x with
    | ok r => exact doneBy ((if_pos ho).trans (congrArg (Except.map (view · s)) hr)) (exec_readReg hr ho)
    | error r => exact refusedBy ((if_pos ho).trans (congrArg (Except.map (view · s)) hr)) (exec_readReg_error hr ho)

/-- Only `State.reply` adds a result. -/
@[simp] theorem effect_results (i : Instr) (s : State) : (effect i s).results = s.results := by
  cases i with
  | consumeInterval => simp only [effect, apply_ite State.results, State.withAlarm_results, ite_self]
  | _ => rfl

/-- A command that returned no result was refused: a done command's result is one more in the list. -/
theorem answer_of_no_result (h : exec i s = .next t) (hr : t.results = s.results) :
    ∃ r, answer i s = .error r ∧ t = s.refuse r := by
  rw [exec_eq_outcome] at h
  obtain rfl := Host.Outcome.next.inj h
  cases ha : answer i s with
  | error r => exact ⟨r, rfl, outcome_of_error ha⟩
  | ok v => simp [outcome_of_ok ha] at hr

/-- No command reads the mark. -/
theorem answer_mark (i : Instr) (s : State) (m : Option RefusalReason) :
    answer i { s with refusal := m } = answer i s := by
  cases i <;> rfl

/-- A command acts alike at `s` and at `f s` if its answer and its effect do not see the difference and `f` writes
neither the results, the issuer nor the mark. -/
theorem exec_map {f : State → State} (hanswer : answer i (f s) = answer i s) (heffect : effect i (f s) = f (effect i s))
    (hreply : ∀ u v, f (State.reply u v) = (f u).reply v) (hrefuse : ∀ r, f (s.refuse r) = (f s).refuse r)
    (h : exec i s = .next t) : exec i (f s) = .next (f t) := by
  rw [exec_eq_outcome] at h ⊢
  obtain rfl := Host.Outcome.next.inj h
  cases ha : answer i s with
  | ok v => rw [outcome_of_ok ha, outcome_of_ok (hanswer.trans ha), heffect, hreply]
  | error r => rw [outcome_of_error ha, outcome_of_error (hanswer.trans ha), hrefuse]

/-! ## The debouncer and the rest of the block -/

/-- `s` with its debouncer's elements (R2) replaced. -/
def State.withDebouncer (b : Button) (q : Quad) (s : State) : State := { s with button := b, quad := q }

/-- `s` with the elements of the other sub-blocks (R2) replaced. -/
def State.withRest (a : Accumulator) (r : Trim) (c : Clock) (l : Alarm) (s : State) : State :=
  { s with acc := a, trim := r, clock := c, alarm := l }

/-- Only QD_UPDATE and READ_REG have an answer that depends on the debouncer. -/
theorem answer_withDebouncer (hq : ∀ x y, i ≠ .qdUpdate x y) (hr : ∀ x, i ≠ .readReg x) (b : Button) (q : Quad) :
    answer i (s.withDebouncer b q) = answer i s := by
  cases i with
  | qdUpdate x y => exact absurd rfl (hq x y)
  | readReg x => exact absurd rfl (hr x)
  | _ => rfl

/-- Only QD_UPDATE writes the debouncer, and no other command's effect depends on it. -/
theorem effect_withDebouncer (hq : ∀ x y, i ≠ .qdUpdate x y) (b : Button) (q : Quad) :
    effect i (s.withDebouncer b q) = (effect i s).withDebouncer b q := by
  cases i with
  | qdUpdate x y => exact absurd rfl (hq x y)
  | consumeInterval =>
    simp only [effect, apply_ite (State.withDebouncer b q)]
    rfl
  | _ => rfl

/-! ## One step with a command waiting -/

/-- A step with a command waiting completes it. -/
theorem step_completes {c : Command} {rest : List Command} (h : s.cfg.legal = true) (hi : s.inbox = c :: rest) :
    ∃ t, step s = .next t ∧ (s.accept c rest).Completes t := by
  rw [step_of_command h hi]
  cases decode c.word with
  | ok i => exact exec_completes i _
  | error r => exact ⟨_, rfl, .refuse _ r⟩

/-- The Boolean check of the model is the list of ranges of R6 to R11. -/
theorem Config.legal_iff (c : Config) :
    c.legal = true ↔ (c.W = 8 ∨ c.W = 16) ∧ (1 ≤ c.BASE.toNat ∧ c.BASE.toNat ≤ 65534) ∧ 1 ≤ c.R.toNat ∧
      1 ≤ c.UI_DIV.toNat ∧ c.INIT_MS.toNat ≤ 59999 := by
  simp only [Config.legal, Bool.and_eq_true, Bool.or_eq_true, beq_iff_eq, decide_eq_true_eq, and_assoc]

/-- For a legal configuration every step answers a next state of the same configuration. -/
theorem step_answers (h : s.cfg.legal = true) : ∃ t, step s = .next t ∧ t.cfg = s.cfg := by
  cases hi : s.inbox with
  | nil => exact ⟨s, step_of_idle h hi, rfl⟩
  | cons c rest =>
    obtain ⟨t, ht, hcfg, -⟩ := step_completes h hi
    exact ⟨t, ht, hcfg⟩

/-! ## The statements of the scope -/

/-- Settles O9: the model's check is the list of ranges, and each of its two values decides the step. -/
theorem stepRunsExactlyForLegalConfigurations : Obligations.StepRunsExactlyForLegalConfigurations := by
  intro s
  rw [← Config.legal_iff s.cfg]
  exact ⟨step_answers, fun h => step_of_illegal (Bool.eq_false_iff.2 h)⟩

/-- Settles O12, from what completing a command can be. -/
theorem commandIsDoneOrRefused : Obligations.CommandIsDoneOrRefused := by
  intro s c rest hl hi
  obtain ⟨t, ht, -, -, -, ⟨r, rfl⟩ | ⟨v, hv, hm⟩⟩ := step_completes hl hi
  · exact ⟨_, ht, fun _ => by simp, .inr ⟨rfl, ⟨rfl, rfl, rfl, rfl, rfl, rfl⟩, by simp⟩⟩
  · exact ⟨t, ht, fun h => hm ▸ h, .inl ⟨v, hv, hm⟩⟩

/-- Settles O13: the command was refused, and for the same reason whatever the mark held. -/
theorem refusalChangesOnlyTheMark : Obligations.RefusalChangesOnlyTheMark := by
  intro s t i m h hr
  obtain ⟨r, ha, rfl⟩ := answer_of_no_result h hr
  refine ⟨r, rfl, ?_⟩
  rw [exec_eq_outcome, outcome_of_error ((answer_mark i s m).trans ha)]
  rfl

/-- Settles O20: answer and effect of each side do not see the other side's elements. -/
theorem debouncerIsIndependent : Obligations.DebouncerIsIndependent := by
  constructor
  · intro s t i b q hq hr
    exact exec_map (f := State.withDebouncer b q) (answer_withDebouncer hq hr b q) (effect_withDebouncer hq b q)
      (fun _ _ => rfl) (fun _ => rfl)
  · intro s t x y a r c l
    exact exec_map (f := State.withRest a r c l) rfl rfl (fun _ _ => rfl) (fun _ => rfl)

/-- Settles O7: the decoding branch of a step with a command waiting. -/
theorem stepRefusesAWordThatDoesNotDecode : Obligations.StepRefusesAWordThatDoesNotDecode := by
  intro s c rest r hl hi hd
  rw [step_of_command hl hi, hd]
  rfl

end Sys2Proof.Machine

/-! ## The invariant of every run

Each named update of the state keeps `State.Inv` if the new sub-block is in its range, so a command keeps it because
each sub-block it writes is in its range again. -/

namespace Sys2Proof.Machine

variable {s t : State}

theorem State.Inv.withAcc {a : Accumulator} (h : s.Inv) (ha : a.InRange s.cfg.W) : (s.withAcc a).Inv := by
  obtain ⟨hcfg, -, htrim, hclock, halarm, hbutton⟩ := h
  exact ⟨hcfg, ha, htrim, hclock, halarm, hbutton⟩

theorem State.Inv.withTrim {x : Trim} (h : s.Inv) (hx : x.Consistent) : (s.withTrim x).Inv := by
  obtain ⟨hcfg, hacc, -, hclock, halarm, hbutton⟩ := h
  exact ⟨hcfg, hacc, hx, hclock, halarm, hbutton⟩

theorem State.Inv.withClock {c : Clock} (h : s.Inv) (hc : c.InRange) : (s.withClock c).Inv := by
  obtain ⟨hcfg, hacc, htrim, -, halarm, hbutton⟩ := h
  exact ⟨hcfg, hacc, htrim, hc, halarm, hbutton⟩

theorem State.Inv.withAlarm {a : Alarm} (h : s.Inv) (ha : a.InRange s.cfg.R.toNat) : (s.withAlarm a).Inv := by
  obtain ⟨hcfg, hacc, htrim, hclock, -, hbutton⟩ := h
  exact ⟨hcfg, hacc, htrim, hclock, ha, hbutton⟩

theorem State.Inv.withButton {b : Button} (h : s.Inv) (hb : b.InRange s.cfg.UI_DIV.toNat) : (s.withButton b).Inv := by
  obtain ⟨hcfg, hacc, htrim, hclock, halarm, -⟩ := h
  exact ⟨hcfg, hacc, htrim, hclock, halarm, hb⟩

/-! ### The range of each sub-block a command writes -/

theorem counterSum_lt {W : Nat} (hW : W = 8 ∨ W = 16) (c : Half) (n : Nat) : (counterSum W c n).toNat < 2 ^ W := by
  rw [counterSum_toNat hW]
  exact Nat.mod_lt _ (pow_width_pos W)

theorem retireBy_inRange {W : Nat} (hW : W = 8 ∨ W = 16) (n : Nat) {a : Accumulator} (ha : a.InRange W) :
    (a.retireBy W n).InRange W :=
  ⟨ha.1, counterSum_lt hW a.retiredCount n⟩

theorem Clock.advance_inRange (n : Nat) (c : Clock) : (c.advance n).InRange := by
  rw [Clock.InRange, advance_milliseconds_toNat]
  exact Nat.mod_lt _ (by decide)

theorem armed_inRange (R : Half) (hR : 0 < R.toNat) (ms n : Half) : (Alarm.armed R.toNat ms n).InRange R.toNat := by
  rw [Alarm.InRange, armed_deadline_toNat R hR]
  exact Nat.mod_lt _ hR

theorem rearmed_inRange (R : Half) (hR : 0 < R.toNat) (a : Alarm) : (a.rearmed R.toNat).InRange R.toNat := by
  rw [Alarm.InRange, rearmed_deadline_toNat R hR]
  exact Nat.mod_lt _ hR

/-! ### Commands and steps -/

/-- The effect of every command whose operand is legal keeps the invariant; only SET_TRIM needs the operand. -/
theorem effect_inv {i : Instr} (hw : i.wellFormed = true) (h : s.Inv) : (effect i s).Inv := by
  obtain ⟨hcfg, hacc, htrim, -, -, hbutton⟩ := id h
  have hW := Config.legal_width hcfg
  have hR := Config.legal_bound hcfg
  cases i with
  | recordTick => exact h.withAcc ⟨counterSum_lt hW _ 1, hacc.2⟩
  | nextReload => exact h.withTrim (Trim.afterReload_consistent htrim)
  | pendingTicks => exact h
  | retire n => exact h.withAcc (retireBy_inRange hW _ hacc)
  | retireAll => exact h.withAcc ⟨hacc.1, hacc.1⟩
  | setTrim k => exact h.withTrim (Trim.configured_consistent k (bne_iff_ne.1 hw))
  | clockAdvance n => exact h.withClock (s.clock.advance_inRange _)
  | clockUpdate => exact (h.withAcc (retireBy_inRange hW _ hacc)).withClock (s.clock.advance_inRange _)
  | startInterval n => exact h.withAlarm (armed_inRange _ hR _ n)
  | intervalElapsed => exact h
  | consumeInterval =>
    simp only [effect]
    split
    · exact h.withAlarm (rearmed_inRange _ hR _)
    · exact h
  | qdUpdate b q => exact h.withButton (step_inRange s.cfg.UI_DIV.isLt b hbutton)
  | readReg x => exact h

/-- Settles O15: a step does nothing, refuses the front command, or has the effect of a well-formed one; taking the
command, refusing it and replying write no element. -/
theorem stepKeepsTheElementRanges : Obligations.StepKeepsTheElementRanges := by
  intro s t h hst
  obtain ⟨-, ⟨-, rfl⟩ | ⟨c, rest, -, ⟨r, rfl⟩ | ⟨i, v, -, -, hw, rfl⟩⟩⟩ := step_inversion hst
  · exact h
  · exact h
  · exact effect_inv (s := s.accept c rest) hw h

/-! ## The debounced state and the rotation count -/

/-- The debounced state flips on the history saturated to the other level. -/
theorem transition_eq_some_iff {st st' : ButtonState} {sr : Byte} :
    st.transition sr = some st' ↔
      (st = .released ∧ st' = .pressed ∧ sr = 0xFF#8) ∨ (st = .pressed ∧ st' = .released ∧ sr = 0x00#8) := by
  cases st <;> cases st' <;> simp [ButtonState.transition]

theorem transition_eq_none_iff {st : ButtonState} {sr : Byte} :
    st.transition sr = none ↔ (st = .released → sr ≠ 0xFF#8) ∧ (st = .pressed → sr ≠ 0x00#8) := by
  cases st <;> simp [ButtonState.transition]

/-- A sample leaves the button settled wherever it was: it flips the state if the shifted history asks for it. -/
theorem step_settled (d : Nat) (b : Bool) (x : Button) : (x.step d b).1.Settled := by
  cases ht : x.btnState.transition (shiftedHistory x.btnShift b) with
  | some st =>
    rw [step_of_transition ht]
    obtain ⟨-, rfl, hsr⟩ | ⟨-, rfl, hsr⟩ := transition_eq_some_iff.1 ht <;> simp [Button.Settled, hsr]
  | none =>
    rw [step_of_no_transition ht, Button.Settled, held_btnState, held_btnShift]
    exact transition_eq_none_iff.1 ht

/-- A sample that flips the state leaves the history saturated to the new level. -/
theorem step_saturated_of_flip {d : Nat} {b : Bool} {x : Button} (h : (x.step d b).1.btnState ≠ x.btnState) :
    ((x.step d b).1.btnState = .pressed ∧ (x.step d b).1.btnShift = 0xFF#8) ∨
      ((x.step d b).1.btnState = .released ∧ (x.step d b).1.btnShift = 0x00#8) := by
  cases ht : x.btnState.transition (shiftedHistory x.btnShift b) with
  | some st =>
    rw [step_of_transition ht]
    exact (transition_eq_some_iff.1 ht).imp And.right And.right
  | none =>
    rw [step_of_no_transition ht, held_btnState] at h
    exact absurd rfl h

/-- The windows whose decode moves the count, clockwise ones first (R181). -/
theorem mem_validWindows_of_delta_ne_zero :
    ∀ n : BitVec 4, (rotationOf n).delta ≠ 0 →
      n ∈ [0b0111#4, 0b1000#4, 0b1110#4, 0b0001#4, 0b1011#4, 0b0100#4, 0b1101#4, 0b0010#4] := by decide

/-- A sample that moves the rotation count decodes to a rotation. -/
theorem step_delta_ne_zero {m : RotMode} {q : BitVec 2} {x : Quad}
    (h : (x.step m q).1.rotationCount ≠ x.rotationCount) : (rotationOf (x.step m q).1.quadNyb).delta ≠ 0 := by
  intro h0
  refine h ?_
  show rotated m x.rotationCount (rotationOf (x.step m q).1.quadNyb).delta = x.rotationCount
  rw [h0, rotated_zero]

/-- A step leaves the debouncer alone or takes one sample into both of its sub-machines (R171). -/
theorem step_debouncer_cases (h : step s = .next t) :
    (t.button = s.button ∧ t.quad = s.quad) ∨
      ∃ b q, t.button = (s.button.step s.cfg.UI_DIV.toNat b).1 ∧ t.quad = (s.quad.step s.cfg.ROT_MODE q).1 := by
  obtain ⟨-, ⟨-, rfl⟩ | ⟨c, rest, -, ⟨r, rfl⟩ | ⟨i, v, -, -, -, rfl⟩⟩⟩ := step_inversion h
  · exact .inl ⟨rfl, rfl⟩
  · exact .inl ⟨rfl, rfl⟩
  cases i with
  | qdUpdate b q => exact .inr ⟨b, q, rfl, rfl⟩
  | consumeInterval =>
    simp only [effect]
    split <;> exact .inl ⟨rfl, rfl⟩
  | _ => exact .inl ⟨rfl, rfl⟩

/-- Settles O51: nothing to show of a step that leaves the debouncer alone; the other takes one sample. -/
theorem buttonFlipsOnlyOnASaturatedHistory : Obligations.ButtonFlipsOnlyOnASaturatedHistory := by
  intro s t h
  obtain ⟨hb, hq⟩ | ⟨b, q, hb, hq⟩ := step_debouncer_cases h
  · rw [hb, hq]
    exact ⟨id, fun h => absurd rfl h, fun h => absurd rfl h⟩
  · rw [hb, hq]
    exact ⟨fun _ => step_settled _ b _, step_saturated_of_flip,
      fun h => mem_validWindows_of_delta_ne_zero _ (step_delta_ne_zero h)⟩

end Sys2Proof.Machine

/-! ## The decoder and the encoder are inverse

Stated once for every command, so that a statement's words are those of `encode` (R80 to R87). -/

namespace Sys2Proof

theorem byteField_encode_setTrim : ∀ k : Byte, byteField (encode (.setTrim k)) = k := by decide

theorem byteField_encode_readReg : ∀ k : Byte, byteField (encode (.readReg k)) = k := by decide

theorem fields_encode_qdUpdate : ∀ (b : Bool) (q : BitVec 2),
    buttonField (encode (.qdUpdate b q)) = b ∧ sampleField (encode (.qdUpdate b q)) = q := by decide

/-- The command's row reads its operands back from its word. -/
theorem withOperands_encode (i : Instr) : i.opcode.withOperands (encode i) = i := by
  cases i with
  | retire n => exact congrArg Instr.retire (u16Field_encode _)
  | clockAdvance n => exact congrArg Instr.clockAdvance (u16Field_encode _)
  | startInterval n => exact congrArg Instr.startInterval (u16Field_encode _)
  | setTrim k => exact congrArg Instr.setTrim (byteField_encode_setTrim k)
  | readReg k => exact congrArg Instr.readReg (byteField_encode_readReg k)
  | qdUpdate b q =>
    obtain ⟨hb, hq⟩ := fields_encode_qdUpdate b q
    exact congrArg₂ Instr.qdUpdate hb hq
  | _ => rfl

@[simp] theorem decode_encode (i : Instr) : decode (encode i) = .ok i :=
  decode_ok_iff.2 ⟨i.opcode, by simp, reserved_encode i, (withOperands_encode i).symm⟩

/-- The decoder drops no bit: the command it finds has the word it was given. -/
theorem encode_of_decode {w : Word} {i : Instr} (h : decode w = .ok i) : encode i = w := by
  obtain ⟨o, ho, hr, rfl⟩ := decode_ok_iff.1 h
  rw [encode, opcode_withOperands, operandField_withOperands hr, Opcode.toByte_of_ofByte ho, ← byte2_of_reserved hr]
  exact word_split w

/-- A command of the agent that may issue `i`, whose word decodes to `i`, is `i` issued. -/
theorem eq_issued {c : Command} {i : Instr} (hd : decode c.word = .ok i) (ha : c.agent = i.owner) : c = i.issued := by
  cases c
  cases ha
  cases encode_of_decode hd
  rfl

/-- Bits 31:16 of a command's word: its opcode and the zero byte (R80). -/
theorem encode_upperHalf (i : Instr) : (encode i).extractLsb' 16 16 = i.opcode.toByte ++ 0#8 :=
  BitVec.extractLsb'_append_eq_left (a := i.opcode.toByte ++ 0#8)

theorem encode_retire_topBits (n : Half) : (encode (.retire n)).extractLsb' 16 16 = 0x1100#16 :=
  (encode_upperHalf _).trans (by decide : Opcode.retire.toByte ++ 0#8 = 0x1100#16)

theorem encode_clockAdvance_topBits (n : Half) : (encode (.clockAdvance n)).extractLsb' 16 16 = 0x3000#16 :=
  (encode_upperHalf _).trans (by decide : Opcode.clockAdvance.toByte ++ 0#8 = 0x3000#16)

theorem encode_startInterval_topBits (n : Half) : (encode (.startInterval n)).extractLsb' 16 16 = 0x3200#16 :=
  (encode_upperHalf _).trans (by decide : Opcode.startInterval.toByte ++ 0#8 = 0x3200#16)

/-- Bits 31:8 of SET_TRIM's word. -/
theorem encode_setTrim_topBits : ∀ k : Byte, (encode (.setTrim k)).extractLsb' 8 24 = 0x200000#24 := by decide

/-- Bits 31:3 of QD_UPDATE's word. -/
theorem encode_qdUpdate_topBits : ∀ (b : Bool) (q : BitVec 2),
    (encode (.qdUpdate b q)).extractLsb' 3 29 = 0x08000000#29 := by decide

end Sys2Proof

/-! ## The refusal clauses of a command's rule -/

namespace Sys2Proof.Machine

variable {s t : State} {i : Instr}

/-- R87 check 2, for every row of R86. -/
theorem reservedBitsRefused (o : Opcode) : ReservedBitsRefused o.toByte o.format.reserved := by
  intro w ho hr
  have hrow : Opcode.ofByte (opcodeField w) = some o := (congrArg Opcode.ofByte ho).trans o.ofByte_toByte
  simp only [decode, hrow, if_neg hr]

theorem sameElements_refl (s : State) : s.SameElements s := ⟨rfl, rfl, rfl, rfl, rfl, rfl⟩

/-- The model's refusal is the refused outcome of R18. -/
theorem refusedWith_refuse (r : RefusalReason) (s : State) : RefusedWith r s (.next (s.refuse r)) :=
  ⟨_, rfl, sameElements_refl s, rfl, rfl, rfl, by simp, fun _ => rfl⟩

/-- R87 check 3, for every command and the agent that may not issue it. -/
theorem wrongAgentRefused {a : Agent} {i : Instr} (h : a ≠ i.owner) : WrongAgentRefused a i := by
  intro s hs
  rw [exec_of_wrongAgent (hs ▸ h)]
  exact refusedWith_refuse _ s

/-! ## The front command -/

/-- Settles O6: the branch of a step for a front word that decodes. -/
theorem stepAppliesTheFrontCommand : Obligations.StepAppliesTheFrontCommand := by
  intro s c rest i hl hi hd
  rw [step_of_command hl hi, hd]
  rfl

/-- Settles O14: the configuration and the front word are the same over both lists, and no command reads the list. -/
theorem commandsWaitingAreNotRead : Obligations.CommandsWaitingAreNotRead := by
  intro s t c xs ys h
  have hl : s.cfg.legal = true := (step_inversion h).1
  rw [step_of_command (s := { s with inbox := c :: xs }) hl rfl] at h
  rw [step_of_command (s := { s with inbox := c :: ys }) hl rfl]
  cases hd : decode c.word with
  | error r =>
    rw [hd] at h
    cases h
    rfl
  | ok i =>
    rw [hd] at h
    exact exec_inbox i h ys

/-! ## The writers of each element, R20 and R68 -/

/-- CONSUME_INTERVAL writes the deadline and nothing else. -/
theorem effect_consumeInterval (s : State) :
    ∃ d, effect .consumeInterval s = s.withAlarm { s.alarm with nextIntervalDeadline := d } := by
  simp only [effect]
  split
  · exact ⟨_, rfl⟩
  · exact ⟨s.alarm.nextIntervalDeadline, rfl⟩

theorem writer_of_eventCount (h : (effect i s).acc.eventCount ≠ s.acc.eventCount) : i = .recordTick := by
  obtain ⟨d, hd⟩ := effect_consumeInterval s
  cases i with
  | recordTick => rfl
  | consumeInterval => exact absurd (by rw [hd]; rfl) h
  | _ => exact absurd rfl h

theorem writer_of_retiredCount (h : (effect i s).acc.retiredCount ≠ s.acc.retiredCount) :
    (∃ n, i = .retire n) ∨ i = .retireAll ∨ i = .clockUpdate := by
  obtain ⟨d, hd⟩ := effect_consumeInterval s
  cases i with
  | retire n => exact .inl ⟨n, rfl⟩
  | retireAll => exact .inr (.inl rfl)
  | clockUpdate => exact .inr (.inr rfl)
  | consumeInterval => exact absurd (by rw [hd]; rfl) h
  | _ => exact absurd rfl h

/-- The cycle keeps the magnitude and the sign, also where it does not advance. -/
theorem afterReload_config (x : Trim) : x.afterReload.trimMag = x.trimMag ∧ x.afterReload.trimNeg = x.trimNeg := by
  unfold Trim.afterReload
  split
  · exact ⟨rfl, rfl⟩
  · exact ⟨x.advanced_trimMag, x.advanced_trimNeg⟩

theorem writer_of_trim (h : (effect i s).trim ≠ s.trim) : i = .nextReload ∨ ∃ k, i = .setTrim k := by
  obtain ⟨d, hd⟩ := effect_consumeInterval s
  cases i with
  | nextReload => exact .inl rfl
  | setTrim k => exact .inr ⟨k, rfl⟩
  | consumeInterval => exact absurd (by rw [hd]; rfl) h
  | _ => exact absurd rfl h

theorem writer_of_trimConfig
    (h : (effect i s).trim.trimMag ≠ s.trim.trimMag ∨ (effect i s).trim.trimNeg ≠ s.trim.trimNeg) :
    ∃ k, i = .setTrim k := by
  have hx : (effect i s).trim ≠ s.trim := by
    intro hx
    rw [hx] at h
    exact h.elim (absurd rfl) (absurd rfl)
  obtain rfl | hk := writer_of_trim hx
  · exact absurd (afterReload_config s.trim) (not_and_or.2 h)
  · exact hk

theorem writer_of_clock (h : (effect i s).clock ≠ s.clock) : (∃ n, i = .clockAdvance n) ∨ i = .clockUpdate := by
  obtain ⟨d, hd⟩ := effect_consumeInterval s
  cases i with
  | clockAdvance n => exact .inl ⟨n, rfl⟩
  | clockUpdate => exact .inr rfl
  | consumeInterval => exact absurd (by rw [hd]; rfl) h
  | _ => exact absurd rfl h

theorem writer_of_deadline (h : (effect i s).alarm.nextIntervalDeadline ≠ s.alarm.nextIntervalDeadline) :
    (∃ n, i = .startInterval n) ∨ i = .consumeInterval := by
  cases i with
  | startInterval n => exact .inl ⟨n, rfl⟩
  | consumeInterval => exact .inr rfl
  | _ => exact absurd rfl h

theorem writer_of_intervalLength (h : (effect i s).alarm.intervalLength ≠ s.alarm.intervalLength) :
    ∃ n, i = .startInterval n := by
  obtain ⟨d, hd⟩ := effect_consumeInterval s
  cases i with
  | startInterval n => exact ⟨n, rfl⟩
  | consumeInterval => exact absurd (by rw [hd]; rfl) h
  | _ => exact absurd rfl h

theorem writer_of_debouncer (h : (effect i s).button ≠ s.button ∨ (effect i s).quad ≠ s.quad) :
    ∃ b q, i = .qdUpdate b q := by
  obtain ⟨d, hd⟩ := effect_consumeInterval s
  cases i with
  | qdUpdate b q => exact ⟨b, q, rfl⟩
  | consumeInterval =>
    rw [hd] at h
    exact h.elim (absurd rfl) (absurd rfl)
  | _ => exact h.elim (absurd rfl) (absurd rfl)

/-- Settles O18: a refusal writes no element; a command that is done was issued by its owner, and the writers of each
element are known by the word `encode` gives them. -/
theorem elementsChangeOnlyByTheirWriters : Obligations.ElementsChangeOnlyByTheirWriters := by
  intro s t c rest hi hst
  obtain ⟨-, ⟨hnil, -⟩ | ⟨c', rest', hi', hcase⟩⟩ := step_inversion hst
  · rw [hi] at hnil
    cases hnil
  cases hi.symm.trans hi'
  obtain ⟨r, rfl⟩ | ⟨i, v, hd, ha, -, rfl⟩ := hcase
  · simp
  obtain rfl := eq_issued hd ha
  refine ⟨fun h => ?_, fun h => ?_, fun h => ?_, fun h => ?_, fun h => ?_, fun h => ?_, fun h => ?_, fun h => ?_⟩
  · obtain rfl := writer_of_eventCount h
    decide
  · obtain ⟨n, rfl⟩ | rfl | rfl := writer_of_retiredCount h
    · exact ⟨rfl, .inl (encode_retire_topBits n)⟩
    · decide
    · decide
  · obtain ⟨k, rfl⟩ := writer_of_trimConfig h
    exact ⟨rfl, encode_setTrim_topBits k⟩
  · have hx : (effect i (s.accept i.issued rest)).trim ≠ s.trim := fun hx =>
      h.elim (absurd (congrArg Trim.trimIdx hx)) (absurd (congrArg Trim.trimActive hx))
    obtain rfl | ⟨k, rfl⟩ := writer_of_trim hx
    · exact .inl (by decide)
    · exact .inr ⟨rfl, encode_setTrim_topBits k⟩
  · obtain ⟨n, rfl⟩ | rfl := writer_of_clock h
    · exact ⟨rfl, .inl (encode_clockAdvance_topBits n)⟩
    · decide
  · obtain ⟨n, rfl⟩ := writer_of_intervalLength h
    exact ⟨rfl, encode_startInterval_topBits n⟩
  · obtain ⟨n, rfl⟩ | rfl := writer_of_deadline h
    · exact ⟨rfl, .inl (encode_startInterval_topBits n)⟩
    · decide
  · obtain ⟨b, q, rfl⟩ := writer_of_debouncer h
    exact ⟨rfl, encode_qdUpdate_topBits b q⟩

/-! ## A command repeated at once, R66 -/

/-- Checks and result of a command depend on its issuer, the configuration and the elements only. -/
theorem answer_congr (hi : s.issuer = t.issuer) (hc : s.cfg = t.cfg) (he : s.SameElements t) :
    answer i s = answer i t := by
  obtain ⟨hacc, htrim, hclock, halarm, hbutton, hquad⟩ := he
  cases s
  cases t
  cases hi
  cases hc
  cases hacc
  cases htrim
  cases hclock
  cases halarm
  cases hbutton
  cases hquad
  cases i <;> rfl

/-- A command repeated where it was refused is refused again. -/
theorem exec_refuse {r : RefusalReason} (h : answer i s = .error r) :
    exec i (s.refuse r) = .next ((s.refuse r).refuse r) := by
  have ha : answer i (s.refuse r) = .error r := (answer_mark i s (some r)).trans h
  rw [exec_eq_outcome, outcome_of_error ha]

theorem effect_of_read (h : i = .pendingTicks ∨ i = .intervalElapsed ∨ ∃ r, i = .readReg r) (s : State) :
    effect i s = s := by
  obtain rfl | rfl | ⟨r, rfl⟩ := h <;> rfl

/-- A read repeated where it was done returns its result again. -/
theorem exec_read_reply {v : Word} (hread : i = .pendingTicks ∨ i = .intervalElapsed ∨ ∃ r, i = .readReg r)
    (h : answer i s = .ok v) : exec i (s.reply v) = .next ((s.reply v).reply v) := by
  have ha : answer i (s.reply v) = .ok v := (answer_congr rfl rfl (sameElements_refl s)).trans h
  rw [exec_eq_outcome, outcome_of_ok ha, effect_of_read hread]

/-- RETIRE_ALL and SET_TRIM write what they wrote before. -/
theorem effect_reply_effect (h : i = .retireAll ∨ ∃ k, i = .setTrim k) (s : State) (v : Word) :
    effect i ((effect i s).reply v) = (effect i s).reply v := by
  obtain rfl | ⟨k, rfl⟩ := h <;> rfl

/-- A command leaves the elements alone where its effect does, refused or done. -/
theorem outcome_sameElements (h : effect i s = s) : s.SameElements (outcome i s) := by
  cases ha : answer i s with
  | ok v =>
    rw [outcome_of_ok ha, h]
    exact sameElements_refl s
  | error r =>
    rw [outcome_of_error ha]
    exact sameElements_refl s

/-- Settles O19: a refused command is refused again; a read that is done is done again with its result; the two writes
write the same again. -/
theorem readsRepeatAndTwoWritesAreIdempotent : Obligations.ReadsRepeatAndTwoWritesAreIdempotent := by
  intro s t i _ h
  rw [exec_eq_outcome] at h
  obtain rfl := Host.Outcome.next.inj h
  cases ha : answer i s with
  | error r =>
    rw [outcome_of_error ha]
    exact ⟨fun _ => ⟨sameElements_refl s, _, [], exec_refuse ha, sameElements_refl s, by simp⟩,
      fun _ => ⟨_, exec_refuse ha, sameElements_refl s⟩⟩
  | ok v =>
    rw [outcome_of_ok ha]
    refine ⟨fun hread => ?_, fun hwrite => ?_⟩
    · rw [effect_of_read hread]
      exact ⟨sameElements_refl s, _, _, exec_read_reply hread ha, sameElements_refl s, rfl, rfl⟩
    · exact ⟨_, exec_eq_outcome i _, outcome_sameElements (effect_reply_effect hwrite s v)⟩

/-! ## The views of READ_REG, R30 and R61 -/

/-- A register's result, by its value (R17). -/
theorem setWidth_eq_ofNat {n v : Nat} {x : BitVec n} (h : x.toNat = v) : x.setWidth 32 = BitVec.ofNat 32 v := by
  rw [← h, BitVec.ofNat_toNat]

theorem toBit_toNat (x : ButtonState) : x.toBit.toNat = if x = .pressed then 1 else 0 := by
  cases x <;> rfl

/-- A flag above a 7-bit field, as TRIM_CFG and TRIM_CYCLE lay them out (R30). -/
theorem flag_append_toNat (b : Bool) (m : BitVec 7) : (BitVec.ofBool b ++ m).toNat = 128 * b.toNat + m.toNat := by
  rw [BitVec.toNat_append, ← Nat.shiftLeft_add_eq_or_of_lt m.isLt, BitVec.toNat_ofBool, Nat.shiftLeft_eq, Nat.mul_comm]

/-- The signed count modulo 256 is its unsigned pattern. -/
theorem toInt_mod_256 (c : Byte) : (c.toInt % 256).toNat = c.toNat := by
  have := c.isLt
  rw [BitVec.toInt_eq_toNat_cond]
  split <;> omega

/-- Settles O53: the index selects a row of R61, whose view is the register's value. -/
theorem readRegReturnsTheIndexedView : Obligations.ReadRegReturnsTheIndexedView := by
  refine ⟨fun i => ?_, reservedBitsRefused .readReg, fun _ => wrongAgentRefused Agent.noConfusion, fun s hs => ⟨?_, ?_⟩⟩
  · rw [← encode_readReg, decode_encode]
  · have read {i : Byte} {v : Nat} (r : RegName) (hr : regOperand i = .ok r) (hv : view r s = BitVec.ofNat 32 v) :
        exec (.readReg i) s = .next { s with results := s.results ++ [⟨.consumer, BitVec.ofNat 32 v⟩] } := by
      rw [exec_readReg hr hs, hv, State.reply, hs]
    intro i v h
    simp only [List.mem_cons, Prod.mk.injEq, List.not_mem_nil, or_false] at h
    obtain ⟨rfl, rfl⟩ | ⟨rfl, rfl⟩ | ⟨rfl, rfl⟩ | ⟨rfl, rfl⟩ | ⟨rfl, rfl⟩ | ⟨rfl, rfl⟩ | ⟨rfl, rfl⟩ | ⟨rfl, rfl⟩ |
      ⟨rfl, rfl⟩ | ⟨rfl, rfl⟩ | ⟨rfl, rfl⟩ | ⟨rfl, rfl⟩ | ⟨rfl, rfl⟩ | ⟨rfl, rfl⟩ | ⟨rfl, rfl⟩ := h
    · exact read .eventCount rfl (setWidth_eq_ofNat rfl)
    · exact read .retiredCount rfl (setWidth_eq_ofNat rfl)
    · exact read .baseInterval rfl (setWidth_eq_ofNat rfl)
    · exact read .trimCfg rfl (setWidth_eq_ofNat (flag_append_toNat _ _))
    · exact read .trimCycle rfl (setWidth_eq_ofNat (flag_append_toNat _ _))
    · exact read .milliseconds rfl (setWidth_eq_ofNat rfl)
    · exact read .minutes rfl (setWidth_eq_ofNat rfl)
    · exact read .intervalLength rfl (setWidth_eq_ofNat rfl)
    · exact read .intervalDeadline rfl (setWidth_eq_ofNat rfl)
    · exact read .buttonShift rfl (setWidth_eq_ofNat rfl)
    · exact read .buttonState rfl (setWidth_eq_ofNat (toBit_toNat _))
    · exact read .holdCount rfl (setWidth_eq_ofNat rfl)
    · exact read .holdDiv rfl (setWidth_eq_ofNat rfl)
    · exact read .quadNybble rfl (setWidth_eq_ofNat rfl)
    · exact read .rotationCount rfl (setWidth_eq_ofNat (toInt_mod_256 _).symm)
  · intro i hi
    rw [exec_readReg_reserved hi hs]
    exact refusedWith_refuse _ s

end Sys2Proof.Machine

/-! ## The statements of the encoding, R80 to R90 -/

namespace Sys2Proof

/-- Settles O1: every row reads its operands back from a word whose reserved bits the encoder left clear. -/
theorem decodeReadsBackEveryEncodedCommand : Obligations.DecodeReadsBackEveryEncodedCommand := decode_encode

/-- Settles O2: the opcode byte, byte 2 and the operand field of a word that decodes are those of its command. -/
theorem eachCommandHasOneWord : Obligations.EachCommandHasOneWord := fun _ _ => encode_of_decode

theorem Opcode.mem_all (o : Opcode) : o ∈ Opcode.all := by cases o <;> decide

/-- R87 check 1: a byte that no row of R86 has is no opcode. -/
theorem decode_of_illegalOpcode {w : Word} (h : opcodeField w ∉ Opcode.all.map Opcode.toByte) :
    decode w = .error .illegalOpcode := by
  have hrow : Opcode.ofByte (opcodeField w) = none :=
    Opcode.ofByte_eq_none.2 fun o ho => h (ho ▸ List.mem_map_of_mem o.mem_all)
  simp only [decode, hrow]

/-- A word of a row's opcode whose reserved bits are clear decodes to the row's command. -/
theorem decode_of_reserved_clear {w : Word} {o : Opcode} (ho : opcodeField w = o.toByte)
    (hr : w &&& o.format.reserved = 0#32) : decode w = .ok (o.withOperands w) :=
  decode_ok_iff.2 ⟨o, by rw [ho, Opcode.ofByte_toByte], hr, rfl⟩

/-- Settles O3: the statement's two lists are the opcode column of R86 and its pairs of opcode and reserved bits, so each
case is one of the decoder's three branches. -/
theorem decodingRefusesOpcodeThenReservedBits : Obligations.DecodingRefusesOpcodeThenReservedBits := by
  intro w
  refine ⟨decode_of_illegalOpcode, fun b reserved hmem hb => ?_⟩
  replace hmem : (b, reserved) ∈ Opcode.all.map fun o => (o.toByte, o.format.reserved) := hmem
  obtain ⟨o, -, ho⟩ := List.mem_map.1 hmem
  cases ho
  exact ⟨Machine.reservedBitsRefused o w hb, fun hr => ⟨_, decode_of_reserved_clear hb hr⟩⟩

theorem decode_of_encode {w : Word} {i : Instr} (h : encode i = w) : decode w = .ok i := h ▸ decode_encode i

/-- Settles O4: each word is the encoding of its command; the zero word's opcode byte is in no row of R86. -/
theorem exampleWordsDecode : Obligations.ExampleWordsDecode := by
  refine ⟨?_, ?_, ?_, ?_, ?_, ?_, ?_, ?_, decode_of_illegalOpcode (by decide)⟩ <;> exact decode_of_encode (by decide)

/-- Settles O5, by running the assembler on each line. -/
theorem exampleLinesAssemble : Obligations.ExampleLinesAssemble := by
  refine ⟨?_, ?_, ?_, ?_, ?_, ?_, ?_, ?_⟩ <;> decide

end Sys2Proof

/-! ## Runs of the agents' own commands

A command its own agent issues, done, is its effect and its reply; a run of ticks counts that many events. -/

namespace Sys2Proof.Machine

variable {s : State} {i : Instr}

theorem after_issued {v : Word} (h : answer i { s with issuer := i.owner } = .ok v) :
    s.after i.issued = (effect i { s with issuer := i.owner }).reply v :=
  State.after_of_exec (decode_encode i) ((exec_eq_outcome i _).trans (congrArg _ (outcome_of_ok h)))

/-- `p` written into the word of RETIRE or CLOCK_ADVANCE, as POLL does with the pending count (R90). -/
theorem retire_issued {p : Nat} (h : p < 2 ^ 16) :
    (⟨.consumer, 0x11000000#32 ||| BitVec.ofNat 32 p⟩ : Command) = (Instr.retire (BitVec.ofNat 16 p)).issued := by
  rw [← setWidth_eq_ofNat ((BitVec.toNat_ofNat p 16).trans (Nat.mod_eq_of_lt h)), ← encode_retire]
  rfl

theorem clockAdvance_issued {p : Nat} (h : p < 2 ^ 16) :
    (⟨.consumer, 0x30000000#32 ||| BitVec.ofNat 32 p⟩ : Command) = (Instr.clockAdvance (BitVec.ofNat 16 p)).issued := by
  rw [← setWidth_eq_ofNat ((BitVec.toNat_ofNat p 16).trans (Nat.mod_eq_of_lt h)), ← encode_clockAdvance]
  rfl

/-- The accumulator one tick later (R101). -/
def Accumulator.counted (W : Nat) (a : Accumulator) : Accumulator :=
  { a with eventCount := counterSum W a.eventCount 1 }

theorem counted_iterate_retireBy (W p n : Nat) (a : Accumulator) :
    ((Accumulator.counted W)^[n] a).retireBy W p = (Accumulator.counted W)^[n] (a.retireBy W p) := by
  have h : Function.Commute (Accumulator.retireBy W p) (Accumulator.counted W) := fun _ => rfl
  exact h.iterate_right n a

theorem counted_iterate_retiredCount (W n : Nat) (a : Accumulator) :
    ((Accumulator.counted W)^[n] a).retiredCount = a.retiredCount := by
  induction n generalizing a with
  | zero => rfl
  | succ n ih => exact ih (a.counted W)

theorem counted_iterate_eventCount {W : Nat} (hW : W = 8 ∨ W = 16) {a : Accumulator} (ha : a.eventCount.toNat < 2 ^ W)
    (n : Nat) : ((Accumulator.counted W)^[n] a).eventCount.toNat = (a.eventCount.toNat + n) % 2 ^ W := by
  induction n with
  | zero => exact (Nat.mod_eq_of_lt ha).symm
  | succ n ih =>
    rw [Function.iterate_succ_apply', Accumulator.counted, counterSum_toNat hW, ih, Nat.mod_add_mod, Nat.add_assoc]

theorem pending_counted_iterate {W : Nat} (hW : W = 8 ∨ W = 16) (a : Accumulator) (n : Nat) :
    ((Accumulator.counted W)^[n] a).pending W = (a.pending W + n) % 2 ^ W := by
  induction n with
  | zero => exact (Nat.mod_eq_of_lt (pending_lt W a)).symm
  | succ n ih =>
    rw [Function.iterate_succ_apply', Accumulator.counted, pending_counted hW, ih, Nat.mod_add_mod, Nat.add_assoc]

/-- Retiring everything pending leaves nothing pending. -/
theorem pending_retireBy_pending {W : Nat} (hW : W = 8 ∨ W = 16) (a : Accumulator) :
    (a.retireBy W (a.pending W)).pending W = 0 := by
  zify
  rw [pending_retireBy hW, sub_self, Int.zero_emod]

/-- A run of `n` ticks counts `n` events and returns `n` zero results. -/
theorem foldl_recordTick (n : Nat) (s : State) :
    (List.replicate n Instr.recordTick.issued).foldl State.after s =
      { s with
        acc := (Accumulator.counted s.cfg.W)^[n] s.acc
        issuer := if n = 0 then s.issuer else .tick
        results := s.results ++ List.replicate n ⟨.tick, 0#32⟩ } := by
  induction n generalizing s with
  | zero => simp
  | succ n ih =>
    rw [List.replicate_succ, List.foldl_cons, after_issued (i := .recordTick) rfl, ih]
    simp [State.reply, effect, State.withAcc, Accumulator.counted, Instr.owner, Instr.opcode, Opcode.owner,
      List.replicate_succ]

/-- The commands of POLL with the operand `n` in its two writes (R90), and `j` and `k` ticks between them. -/
def pollWithTicks (j k : Nat) (n : Half) : List Command :=
  [Instr.pendingTicks.issued] ++ List.replicate j Instr.recordTick.issued ++ [(Instr.retire n).issued] ++
    List.replicate k Instr.recordTick.issued ++ [(Instr.clockAdvance n).issued]

/-- POLL's writes do not see the ticks between its commands: these count as if they came after it. -/
theorem foldl_pollWithTicks (j k : Nat) (n : Half) (s : State) :
    (pollWithTicks j k n).foldl State.after s =
      { s with
        acc := (Accumulator.counted s.cfg.W)^[j + k] (s.acc.retireBy s.cfg.W n.toNat)
        clock := s.clock.advance n.toNat
        issuer := .consumer
        results := s.results ++ [⟨.consumer, BitVec.ofNat 32 (s.acc.pending s.cfg.W)⟩] ++
          (List.replicate j ⟨.tick, 0#32⟩ ++ [⟨.consumer, 0#32⟩] ++ List.replicate k ⟨.tick, 0#32⟩ ++
            [⟨.consumer, 0#32⟩]) } := by
  simp only [pollWithTicks, List.foldl_append, List.foldl_cons, List.foldl_nil]
  rw [after_issued (i := .pendingTicks) rfl, foldl_recordTick, after_issued (i := .retire n) rfl, foldl_recordTick,
    after_issued (i := .clockAdvance n) rfl]
  simp [State.reply, effect, State.withAcc, State.withClock, counted_iterate_retireBy, Instr.owner, Instr.opcode,
    Opcode.owner, Function.iterate_add_apply, Nat.add_comm j k]

/-- Settles O43: once POLL's ticks count after its writes, what is left is CLOCK_UPDATE's accumulator with `j + k` more
events and the same rest. -/
theorem pollEndsWhereClockUpdateDoes : Obligations.PollEndsWhereClockUpdateDoes := by
  intro s j k h p tick
  obtain ⟨hcfg, hacc, -⟩ := h
  have hW := Config.legal_width hcfg
  have hp : p < 2 ^ 16 := (pending_lt s.cfg.W s.acc).trans_le (pow_width_le hW)
  have hn : (BitVec.ofNat 16 p).toNat = p := (BitVec.toNat_ofNat p 16).trans (Nat.mod_eq_of_lt hp)
  have hnone : (s.acc.retireBy s.cfg.W p).pending s.cfg.W = 0 := pending_retireBy_pending hW s.acc
  have hpoll := runCommands_eq_foldl (pollWithTicks j k (BitVec.ofNat 16 p)) hcfg
  have hupdate := runCommands_eq_foldl [Instr.clockUpdate.issued] hcfg
  rw [foldl_pollWithTicks, hn] at hpoll
  rw [List.foldl_cons, after_issued (i := .clockUpdate) rfl] at hupdate
  rw [retire_issued hp, clockAdvance_issued hp]
  refine ⟨_, _, hpoll, hupdate, List.prefix_append _ _, counted_iterate_retiredCount _ _ _,
    counted_iterate_eventCount hW (retireBy_inRange hW p hacc).1 _, ?_, hnone, rfl, rfl, rfl, rfl, rfl⟩
  exact (pending_counted_iterate hW _ _).trans (by rw [hnone, Nat.zero_add])

end Sys2Proof.Machine

/-! ## The commands of the tick accumulator, R101 to R104 -/

namespace Sys2Proof.Machine

variable {s : State}

theorem Accumulator.eq_of_counters {a b : Accumulator} (he : a.eventCount = b.eventCount)
    (hr : a.retiredCount = b.retiredCount) : a = b := by
  cases a
  cases b
  cases he
  cases hr
  rfl

/-- Nothing is pending while the counters are equal. -/
theorem pending_of_counters_eq {a : Accumulator} (h : a.retiredCount = a.eventCount) (W : Nat) : a.pending W = 0 := by
  zify
  rw [pending_cast, h, sub_self, Int.zero_emod]

/-- Settles O21, from the equation of RECORD_TICK and the pending count one event later. -/
theorem recordTickCountsOneTick : Obligations.RecordTickCountsOneTick := by
  refine ⟨decode_encode .recordTick, reservedBitsRefused .recordTick, wrongAgentRefused Agent.noConfusion,
    fun s hs => ⟨?_, fun hl => pending_counted (Config.legal_width hl) s.acc⟩⟩
  rw [exec_recordTick hs, State.reply, State.withAcc_issuer, hs]
  rfl

/-- Settles O22: a pending count is below `2^16`, so the result word is the residue itself. -/
theorem pendingTicksReturnsTheDifference : Obligations.PendingTicksReturnsTheDifference := by
  refine ⟨decode_encode .pendingTicks, reservedBitsRefused .pendingTicks, wrongAgentRefused Agent.noConfusion,
    fun s hs hl => ⟨BitVec.ofNat 32 (s.acc.pending s.cfg.W), ?_, ?_⟩⟩
  · have hlt : s.acc.pending s.cfg.W < 2 ^ 32 :=
      (pending_lt s.cfg.W s.acc).trans_le ((pow_width_le (Config.legal_width hl)).trans (by decide))
    rw [BitVec.toNat_ofNat, Nat.mod_eq_of_lt hlt, pending_cast]
  · rw [exec_pendingTicks hs, State.reply, hs]

/-- Settles O23, from the equation of RETIRE and the pending count after retiring `n`. -/
theorem retireAdvancesTheRetireCounter : Obligations.RetireAdvancesTheRetireCounter := by
  refine ⟨fun n => ?_, reservedBitsRefused .retire, fun _ => wrongAgentRefused Agent.noConfusion,
    fun s n hs => ⟨?_, fun hl => pending_retireBy (Config.legal_width hl) s.acc n.toNat⟩⟩
  · rw [← encode_retire, decode_encode]
  · rw [exec_retire n hs, State.reply, State.withAcc_issuer, hs]
    rfl

/-- Settles O24: RETIRE_ALL makes the counters equal, and then nothing is pending. -/
theorem retireAllConsumesEverythingPending : Obligations.RetireAllConsumesEverythingPending := by
  refine ⟨decode_encode .retireAll, reservedBitsRefused .retireAll, wrongAgentRefused Agent.noConfusion, ?_⟩
  intro s hs t
  have ht : t.issuer = .consumer := hs
  constructor
  · rw [exec_retireAll hs, State.reply, State.withAcc_issuer, hs]
    simp only [t, hs]
    rfl
  · rw [exec_pendingTicks ht, pending_of_counters_eq (a := t.acc) rfl, State.reply, ht]

/-! ### Runs that end in PENDING_TICKS, R105 and R106 -/

theorem runCommands_pendingTicks (cmds : List Command) (h : s.cfg.legal = true) :
    ∃ t, runCommands (cmds ++ [Instr.pendingTicks.issued]) s = .next t ∧
      t.results = (cmds.foldl State.after s).results ++
        [⟨.consumer, BitVec.ofNat 32 ((cmds.foldl State.after s).acc.pending s.cfg.W)⟩] := by
  refine ⟨_, runCommands_eq_foldl _ h, ?_⟩
  rw [List.foldl_append, List.foldl_cons, List.foldl_nil, after_issued (i := .pendingTicks) rfl,
    ← foldl_after_cfg cmds s]
  rfl

/-- The word is none of the three that write the retire counter (R20). -/
def NotRetiring (w : Word) : Prop :=
  (∀ n, decode w ≠ .ok (.retire n)) ∧ decode w ≠ .ok .retireAll ∧ decode w ≠ .ok .clockUpdate

/-- A command that neither counts nor retires leaves the counters alone: it is refused, or writes neither of them. -/
theorem after_acc_of_ne_recordTick {c : Command} (hc : c ≠ Instr.recordTick.issued) (hr : NotRetiring c.word) :
    (s.after c).acc = s.acc := by
  obtain ⟨hretire, hall, hupdate⟩ := hr
  obtain ⟨r, h⟩ | ⟨i, v, hd, ha, -, h⟩ := s.after_inversion c
  · rw [h]
  rw [h]
  apply Accumulator.eq_of_counters
  · by_contra hne
    obtain rfl := writer_of_eventCount hne
    exact hc (eq_issued hd ha)
  · by_contra hne
    obtain ⟨n, rfl⟩ | rfl | rfl := writer_of_retiredCount hne
    · exact hretire n hd
    · exact hall hd
    · exact hupdate hd

/-- A run without a retiring command only counts the RECORD_TICK commands of the tick agent. -/
theorem foldl_acc_of_notRetiring {cmds : List Command} (hr : ∀ c ∈ cmds, NotRetiring c.word) :
    (cmds.foldl State.after s).acc = (Accumulator.counted s.cfg.W)^[cmds.count Instr.recordTick.issued] s.acc := by
  induction cmds generalizing s with
  | nil => rfl
  | cons c cmds ih =>
    obtain ⟨hc, hrest⟩ := List.forall_mem_cons.1 hr
    rw [List.foldl_cons, ih hrest, State.after_cfg]
    by_cases htick : c = Instr.recordTick.issued
    · subst htick
      rw [List.count_cons_self, Function.iterate_succ_apply, after_issued (i := .recordTick) rfl]
      rfl
    · rw [List.count_cons_of_ne htick, after_acc_of_ne_recordTick htick hc]

/-- Settles O25: nothing is pending at first, and the run before the last command only counts its ticks. -/
theorem pendingTicksCountsTheTicksModuloTheWidth : Obligations.PendingTicksCountsTheTicksModuloTheWidth := by
  intro s cmds hl heq hr
  obtain ⟨t, ht, hresults⟩ := runCommands_pendingTicks cmds hl
  rw [foldl_acc_of_notRetiring hr, pending_counted_iterate (Config.legal_width hl), pending_of_counters_eq heq,
    Nat.zero_add] at hresults
  exact ⟨t, _, ht, hresults⟩

/-- PENDING_TICKS and RETIRE `n`, with `j` ticks between them and `k` after them (R106). -/
def readThenRetire (j k : Nat) (n : Half) : List Command :=
  [Instr.pendingTicks.issued] ++ List.replicate j Instr.recordTick.issued ++ [(Instr.retire n).issued] ++
    List.replicate k Instr.recordTick.issued

/-- RETIRE does not see the ticks before it: they count as if they came after it. -/
theorem foldl_readThenRetire (j k : Nat) (n : Half) (s : State) :
    (readThenRetire j k n).foldl State.after s =
      { s with
        acc := (Accumulator.counted s.cfg.W)^[j + k] (s.acc.retireBy s.cfg.W n.toNat)
        issuer := if k = 0 then .consumer else .tick
        results := s.results ++ [⟨.consumer, BitVec.ofNat 32 (s.acc.pending s.cfg.W)⟩] ++
          List.replicate j ⟨.tick, 0#32⟩ ++ [⟨.consumer, 0#32⟩] ++ List.replicate k ⟨.tick, 0#32⟩ } := by
  simp only [readThenRetire, List.foldl_append, List.foldl_cons, List.foldl_nil]
  rw [after_issued (i := .pendingTicks) rfl, foldl_recordTick, after_issued (i := .retire n) rfl, foldl_recordTick]
  simp [State.reply, effect, State.withAcc, counted_iterate_retireBy, Instr.owner, Instr.opcode, Opcode.owner,
    Function.iterate_add_apply, Nat.add_comm j k]

/-- Settles O26: retiring what was read leaves nothing pending but the ticks on its two sides. -/
theorem retiringWhatWasReadLeavesTheLateTicks : Obligations.RetiringWhatWasReadLeavesTheLateTicks := by
  intro s j k hl p
  have hW := Config.legal_width hl
  have hp : p < 2 ^ 16 := (pending_lt s.cfg.W s.acc).trans_le (pow_width_le hW)
  have hn : (BitVec.ofNat 16 p).toNat = p := (BitVec.toNat_ofNat p 16).trans (Nat.mod_eq_of_lt hp)
  obtain ⟨t, ht, hresults⟩ := runCommands_pendingTicks (readThenRetire j k (BitVec.ofNat 16 p)) hl
  rw [foldl_readThenRetire, hn, pending_counted_iterate hW, pending_retireBy_pending hW, Nat.zero_add] at hresults
  rw [retire_issued hp]
  exact ⟨t, ht, hresults⟩

end Sys2Proof.Machine

/-! ## The commands of the trim, R121 to R128 -/

namespace Sys2Proof.Machine

variable {s : State}

/-- A legal operand's magnitude is at most 127, so it fits its 7 bits. -/
theorem configured_trimMag : ∀ k : Byte, k ≠ 0x80#8 → (Trim.configured k.toInt).trimMag.toNat = k.toInt.natAbs := by
  decide

/-- Settles O27, from the equation of SET_TRIM and the trim it writes. -/
theorem setTrimRestartsTheCycle : Obligations.SetTrimRestartsTheCycle := by
  refine ⟨fun k => ?_, reservedBitsRefused .setTrim, fun _ => wrongAgentRefused Agent.noConfusion,
    fun s hs => ⟨?_, fun k hk => ⟨Trim.configured k.toInt, ?_, configured_trimMag k hk, decide_eq_true_iff, rfl,
      decide_eq_true_iff⟩⟩⟩
  · rw [← encode_setTrim, decode_encode]
  · rw [exec_setTrim_reserved hs]
    exact refusedWith_refuse _ s
  · rw [exec_setTrim hk hs, State.reply, State.withTrim_issuer, hs]
    rfl

theorem Trim.reload_of_off {x : Trim} (h : x.trimMag = 0#7) (BASE : Half) : x.reload BASE = BASE.toNat := if_pos h

theorem Trim.reload_of_set {x : Trim} (h : x.trimMag ≠ 0#7) (BASE : Half) :
    x.reload BASE = (BASE.toNat : Int) + x.adjustment := if_neg h

theorem Trim.afterReload_of_off {x : Trim} (h : x.trimMag = 0#7) : x.afterReload = x := if_pos h

theorem Trim.afterReload_of_set {x : Trim} (h : x.trimMag ≠ 0#7) : x.afterReload = x.advanced := if_neg h

/-- `advance_cycle()` of R125 writes the position and the flag only: at the threshold it restarts the position and flips
the flag, below it moves the position on by one. -/
theorem Trim.advanced_cases {x : Trim} (h : x.Consistent) (h0 : x.trimMag ≠ 0#7) :
    ∃ idx active, x.advanced = { x with trimIdx := idx, trimActive := active } ∧
      (x.trimIdx.toNat + 1 = x.trimMag.toNat → idx = 0#7 ∧ active = !x.trimActive) ∧
      (x.trimIdx.toNat + 1 ≠ x.trimMag.toNat → idx.toNat = x.trimIdx.toNat + 1 ∧ active = x.trimActive) := by
  have hidx := h.2 h0
  have hmag := x.trimMag.isLt
  by_cases he : x.trimIdx.toNat + 1 = x.trimMag.toNat
  · exact ⟨_, _, if_pos he, fun _ => ⟨rfl, rfl⟩, absurd he⟩
  · refine ⟨_, _, if_neg he, fun h => absurd h he, fun _ => ⟨?_, rfl⟩⟩
    rw [BitVec.toNat_ofNat]
    omega

/-- Settles O28: with trimming off the reload value is `BASE` and the cycle stands; else the value is adjusted and the
cycle advances. -/
theorem nextReloadReturnsTheAdjustedBase : Obligations.NextReloadReturnsTheAdjustedBase := by
  refine ⟨decode_encode .nextReload, reservedBitsRefused .nextReload, wrongAgentRefused Agent.noConfusion, ?_⟩
  intro s hs hinv
  obtain ⟨hcfg, -, htrim, -⟩ := hinv
  refine ⟨fun h0 => ?_, fun h0 => ?_⟩
  · rw [exec_nextReload hs, Trim.reload_of_off h0, Trim.afterReload_of_off h0, BitVec.ofInt_natCast,
      BitVec.ofNat_toNat, State.reply, State.withTrim_issuer, hs]
    rfl
  · obtain ⟨idx, active, hadv, hcycle⟩ := Trim.advanced_cases htrim h0
    refine ⟨BitVec.ofInt 32 (s.trim.reload s.cfg.BASE), idx, active, ?_, ?_, hcycle⟩
    · rw [exec_nextReload hs, Trim.afterReload_of_set h0, hadv, State.reply, State.withTrim_issuer, hs]
      rfl
    · rw [reload_word (Config.legal_base hcfg), Trim.reload_of_set h0]
      rfl

/-- Settles O31: the word is the reload value, which is one of the three by the sign of the trim. -/
theorem reloadIsWithinOneOfTheBase : Obligations.ReloadIsWithinOneOfTheBase := by
  intro s hs hl
  have hbase := Config.legal_base hl
  have hword := reload_word hbase s.trim
  refine ⟨_, BitVec.ofInt 32 (s.trim.reload s.cfg.BASE), exec_nextReload hs, ?_, ?_⟩
  · rw [State.reply_results, State.withTrim_issuer, hs]
    rfl
  · obtain h | ⟨hneg, h⟩ | ⟨hneg, h⟩ := s.trim.reload_cases s.cfg.BASE
    · exact ⟨by omega, .inl (by omega)⟩
    · exact ⟨by omega, .inr (.inl ⟨hneg, by omega⟩)⟩
    · exact ⟨by omega, .inr (.inr ⟨hneg, by omega⟩)⟩

/-- Settles O32: RECORD_TICK and NEXT_RELOAD write and read disjoint elements. -/
theorem tickCommandsCommute : Obligations.TickCommandsCommute := by
  intro s hl
  have htr := runCommands_eq_foldl [Instr.recordTick.issued, Instr.nextReload.issued] hl
  have hrt := runCommands_eq_foldl [Instr.nextReload.issued, Instr.recordTick.issued] hl
  simp only [List.foldl_cons, List.foldl_nil] at htr hrt
  rw [after_issued (i := .recordTick) rfl, after_issued (i := .nextReload) rfl] at htr
  rw [after_issued (i := .nextReload) rfl, after_issued (i := .recordTick) rfl] at hrt
  exact ⟨_, _, BitVec.ofInt 32 (s.trim.reload s.cfg.BASE), htr, hrt, ⟨rfl, rfl, rfl, rfl, rfl, rfl⟩,
    List.append_assoc _ _ _, List.append_assoc _ _ _⟩

/-! ### The values of successive reloads -/

/-- The next `m` reload values (R123). -/
def Trim.reloads (BASE : Half) : Nat → Trim → List Int
  | 0, _ => []
  | m + 1, x => x.reload BASE :: x.afterReload.reloads BASE m

/-- `sign(k)` of R126, while a trim is set. -/
def Trim.sign (x : Trim) : Int := if x.trimNeg then -1 else 1

theorem Trim.reloads_of_off {x : Trim} (h : x.trimMag = 0#7) (BASE : Half) (m : Nat) :
    x.reloads BASE m = List.replicate m (BASE.toNat : Int) := by
  induction m with
  | zero => rfl
  | succ m ih => rw [Trim.reloads, Trim.reload_of_off h, Trim.afterReload_of_off h, ih, List.replicate_succ]

/-- From any phase of the cycle, a reload is adjusted exactly in the first half of the cycle. -/
theorem Trim.reloads_of_set {x : Trim} (h : x.Consistent) (h0 : x.trimMag ≠ 0#7) (BASE : Half) (m : Nat) :
    x.reloads BASE m = (List.range m).map fun j =>
      (BASE.toNat : Int) + if (x.phase + j) % (2 * x.trimMag.toNat) < x.trimMag.toNat then x.sign else 0 := by
  induction m generalizing x with
  | zero => rfl
  | succ m ih =>
    obtain ⟨hmag, hneg⟩ := afterReload_config x
    have hphase : x.afterReload.phase = (x.phase + 1) % (2 * x.trimMag.toNat) := by
      rw [Trim.afterReload_of_set h0, Trim.phase_advanced h h0]
    have hsign : x.afterReload.sign = x.sign := by rw [Trim.sign, hneg, Trim.sign]
    rw [Trim.reloads, ih (Trim.afterReload_consistent h) (hmag ▸ h0), List.range_succ_eq_map, List.map_cons,
      List.map_map, Trim.reload_of_set h0, Trim.adjustment_eq h h0, hphase, hmag, hsign]
    refine congrArg₂ List.cons ?_ (List.map_congr_left fun j _ => ?_)
    · rw [Nat.add_zero, Nat.mod_eq_of_lt (Trim.phase_lt h h0), Trim.sign]
    · rw [Nat.mod_add_mod, Nat.add_right_comm]
      rfl

/-- The words NEXT_RELOAD returns are the reload values themselves. -/
theorem reloads_words {BASE : Half} (h : 1 ≤ BASE.toNat ∧ BASE.toNat ≤ 65534) (m : Nat) (x : Trim) :
    ((x.reloads BASE m).map (BitVec.ofInt 32)).map (fun v : Word => (v.toNat : Int)) = x.reloads BASE m := by
  induction m generalizing x with
  | zero => rfl
  | succ m ih => rw [Trim.reloads, List.map_cons, List.map_cons, ih, reload_word h]

theorem after_nextReload (s : State) :
    (s.after Instr.nextReload.issued).trim = s.trim.afterReload ∧
      (s.after Instr.nextReload.issued).results =
        s.results ++ [⟨.tick, BitVec.ofInt 32 (s.trim.reload s.cfg.BASE)⟩] := by
  rw [after_issued (i := .nextReload) rfl]
  exact ⟨rfl, rfl⟩

/-- A run of NEXT_RELOAD commands returns the reload values in turn. -/
theorem foldl_nextReload_results (m : Nat) (s : State) :
    ((List.replicate m Instr.nextReload.issued).foldl State.after s).results =
      s.results ++ ((s.trim.reloads s.cfg.BASE m).map (BitVec.ofInt 32)).map fun v => ⟨.tick, v⟩ := by
  induction m generalizing s with
  | zero => exact (List.append_nil _).symm
  | succ m ih =>
    obtain ⟨htrim, hresult⟩ := after_nextReload s
    rw [List.replicate_succ, List.foldl_cons, ih, htrim, hresult, State.after_cfg, List.append_assoc]
    rfl

/-- SET_TRIM starts the cycle at the first place of its active half. -/
theorem configured_cycle : ∀ k : Byte, k ≠ 0x80#8 → k ≠ 0#8 →
    (Trim.configured k.toInt).trimMag ≠ 0#7 ∧ (Trim.configured k.toInt).phase = 0 ∧
      (Trim.configured k.toInt).sign = k.toInt.sign := by decide

/-- Settles O29: SET_TRIM sets the phase to 0, and the `j`-th reload after it stands at phase `j` of the cycle. -/
theorem reloadsArePeriodicAfterSetTrim : Obligations.ReloadsArePeriodicAfterSetTrim := by
  intro s k m hl hk hk0
  obtain ⟨hset, hphase, hsign⟩ := configured_cycle k hk hk0
  have hrun := runCommands_eq_foldl ((Instr.setTrim k).issued :: List.replicate m Instr.nextReload.issued) hl
  rw [List.foldl_cons, after_issued (i := .setTrim k) (if_neg hk)] at hrun
  rw [← encode_setTrim]
  refine ⟨_, ((Trim.configured k.toInt).reloads s.cfg.BASE m).map (BitVec.ofInt 32), hrun, ?_, ?_⟩
  · exact (foldl_nextReload_results m _).trans (List.append_assoc _ _ _)
  · rw [reloads_words (Config.legal_base hl), Trim.reloads_of_set (Trim.configured_consistent k hk) hset, hphase, hsign,
      configured_trimMag k hk]
    simp only [Nat.zero_add]

/-! ### The sum over a period, R127 -/

/-- Over any `2*n` consecutive places, the first half of a cycle of length `2*n` is met `n` times. -/
theorem count_firstHalf (n p : Nat) : Nat.count (fun j => (p + j) % (2 * n) < n) (2 * n) = n := by
  have hshift := Nat.count_add (fun j => j % (2 * n) < n) p (2 * n)
  rw [Nat.add_comm, Nat.count_add] at hshift
  simp only [Nat.add_mod_left] at hshift
  have hfirst : Nat.count (fun j => j % (2 * n) < n) n = n :=
    Nat.count_of_forall fun j hj => by rwa [Nat.mod_eq_of_lt (by omega)]
  have hsecond : Nat.count (fun j => (n + j) % (2 * n) < n) n = 0 :=
    Nat.count_of_forall_not fun j hj => by rw [Nat.mod_eq_of_lt (by omega)]; omega
  have hcycle := Nat.count_add (fun j => j % (2 * n) < n) n n
  rw [hfirst, hsecond, ← Nat.two_mul] at hcycle
  omega

/-- A sum in which `d` is added to `b` where `p` holds. -/
theorem sum_map_adjusted (b d : Int) (p : Nat → Prop) [DecidablePred p] (m : Nat) :
    ((List.range m).map fun j => b + if p j then d else 0).sum = m * b + Nat.count p m * d := by
  induction m with
  | zero => simp
  | succ m ih =>
    rw [List.range_succ, List.map_append, List.sum_append, ih, List.map_singleton, List.sum_singleton, Nat.count_succ]
    split <;> push_cast <;> ring

/-- The reload values of a whole period sum to `P*BASE + k`; with trimming off, any number of them to as many `BASE`. -/
theorem Trim.sum_reloads {x : Trim} (h : x.Consistent) (BASE : Half) {m : Nat}
    (hm : m = 2 * x.trimMag.toNat ∨ x.trimMag = 0#7) :
    (x.reloads BASE m).sum = m * BASE.toNat + x.trimMag.toNat * x.sign := by
  by_cases h0 : x.trimMag = 0#7
  · rw [Trim.reloads_of_off h0, List.sum_replicate, h0]
    simp
  · obtain rfl := hm.resolve_right h0
    rw [Trim.reloads_of_set h h0, sum_map_adjusted, count_firstHalf]

/-- The sum of the results the tick agent received (R31). -/
def tickTotal (rs : List Reply) : Int := ((rs.filter fun r => r.agent == .tick).map fun r => (r.value.toNat : Int)).sum

theorem tickTotal_singleton_tick (v : Word) : tickTotal [⟨.tick, v⟩] = v.toNat := add_zero _

theorem tickTotal_append (rs rs' : List Reply) : tickTotal (rs ++ rs') = tickTotal rs + tickTotal rs' := by
  simp only [tickTotal, List.filter_append, List.map_append, List.sum_append]

/-- Only taking a command writes the issuer. -/
@[simp] theorem effect_issuer (i : Instr) (s : State) : (effect i s).issuer = s.issuer := by
  obtain ⟨d, hd⟩ := effect_consumeInterval s
  cases i with
  | consumeInterval => rw [hd, State.withAlarm_issuer]
  | _ => rfl

/-- The tick agent's two commands are RECORD_TICK and NEXT_RELOAD (R86). -/
theorem owner_eq_consumer {i : Instr} (hrecord : i ≠ .recordTick) (hreload : i ≠ .nextReload) : i.owner = .consumer := by
  cases i with
  | recordTick => exact absurd rfl hrecord
  | nextReload => exact absurd rfl hreload
  | _ => rfl

/-- A command that is neither SET_TRIM nor the tick agent's NEXT_RELOAD keeps the trim, and adds nothing to the tick
agent's total: it is RECORD_TICK, which returns 0, is refused, or returns to the consumer. -/
theorem after_of_ne_nextReload {c : Command} (hc : c ≠ Instr.nextReload.issued)
    (hr : ∀ k, decode c.word ≠ .ok (.setTrim k)) :
    (s.after c).trim = s.trim ∧ ∃ new, (s.after c).results = s.results ++ new ∧ tickTotal new = 0 := by
  by_cases hrecord : c = Instr.recordTick.issued
  · rw [hrecord, after_issued (i := .recordTick) rfl]
    exact ⟨rfl, [⟨.tick, 0#32⟩], rfl, rfl⟩
  obtain ⟨r, h⟩ | ⟨i, v, hd, ha, -, h⟩ := s.after_inversion c
  · rw [h]
    exact ⟨rfl, [], (List.append_nil _).symm, rfl⟩
  have howner : i.owner = .consumer := by
    refine owner_eq_consumer ?_ ?_
    · rintro rfl
      exact hrecord (eq_issued hd ha)
    · rintro rfl
      exact hc (eq_issued hd ha)
  rw [h]
  refine ⟨?_, [⟨.consumer, v⟩], ?_, rfl⟩
  · by_contra hne
    obtain rfl | ⟨k, rfl⟩ := writer_of_trim (s := { s with issuer := c.agent }) hne
    · exact hc (eq_issued hd ha)
    · exact hr k hd
  · rw [State.reply_results, effect_results, effect_issuer, ha, howner]

/-- A run without SET_TRIM returns to the tick agent the total of as many reload values as it has NEXT_RELOAD commands
of that agent. -/
theorem foldl_tickTotal {cmds : List Command} (hl : s.cfg.legal = true)
    (hr : ∀ c ∈ cmds, ∀ k, decode c.word ≠ .ok (.setTrim k)) :
    ∃ new, (cmds.foldl State.after s).results = s.results ++ new ∧
      tickTotal new = (s.trim.reloads s.cfg.BASE (cmds.count Instr.nextReload.issued)).sum := by
  induction cmds generalizing s with
  | nil => exact ⟨[], (List.append_nil _).symm, rfl⟩
  | cons c cmds ih =>
    obtain ⟨hc, hrest⟩ := List.forall_mem_cons.1 hr
    obtain ⟨new, hnew, htotal⟩ := ih (s := s.after c) (by rwa [State.after_cfg]) hrest
    rw [List.foldl_cons, hnew]
    by_cases hreload : c = Instr.nextReload.issued
    · subst hreload
      obtain ⟨htrim, hresult⟩ := after_nextReload s
      rw [htrim, State.after_cfg] at htotal
      rw [hresult, List.count_cons_self]
      refine ⟨_, List.append_assoc _ _ _, ?_⟩
      rw [tickTotal_append, tickTotal_singleton_tick, reload_word (Config.legal_base hl), htotal, Trim.reloads,
        List.sum_cons]
    · obtain ⟨htrim, first, hfirst, hzero⟩ := after_of_ne_nextReload hreload hc
      rw [htrim, State.after_cfg] at htotal
      rw [hfirst, List.count_cons_of_ne hreload]
      exact ⟨first ++ new, List.append_assoc _ _ _, by rw [tickTotal_append, hzero, htotal, zero_add]⟩

/-- Settles O30: the run's total is that of its reload values, and a period of these sums to `P*BASE + k`. -/
theorem reloadsSumExactlyOverAPeriod : Obligations.ReloadsSumExactlyOverAPeriod := by
  intro s cmds hinv hr P k
  obtain ⟨hl, -, htrim, -⟩ := hinv
  obtain ⟨new, hnew, htotal⟩ := foldl_tickTotal hl hr
  have hk : (s.trim.trimMag.toNat : Int) * s.trim.sign = k := by
    simp only [k, Trim.sign]
    split <;> ring
  refine ⟨_, new, runCommands_eq_foldl cmds hl, hnew, fun hP => ?_⟩
  rw [← hk]
  exact htotal.trans (Trim.sum_reloads htrim s.cfg.BASE hP)

end Sys2Proof.Machine

/-! ## The commands of the wall clock, R141 to R145 -/

namespace Sys2Proof.Machine

variable {s : State}

/-- A command whose reply goes to the consumer, with the reply written out. -/
theorem exec_reply_to_consumer {i : Instr} {u : State} {v : Word} (he : exec i s = .next (u.reply v))
    (hu : u.issuer = .consumer) : exec i s = .next { u with results := u.results ++ [⟨.consumer, v⟩] } := by
  rw [he, State.reply, hu]

/-- Settles O33, from the equation of CLOCK_ADVANCE. -/
theorem clockAdvanceIsExact : Obligations.ClockAdvanceIsExact := by
  refine ⟨fun n => ?_, reservedBitsRefused .clockAdvance, fun _ => wrongAgentRefused Agent.noConfusion,
    fun s n hs => ?_⟩
  · rw [← encode_clockAdvance, decode_encode]
  · exact exec_reply_to_consumer (exec_clockAdvance n hs) hs

/-- The loop of R142 computes remainder and quotient, if it may repeat as often as 60000 goes into the total. -/
theorem rolloverLoop_eq (k : Nat) {total m : Nat} (ht : total < 60000 * (k + 1)) (hm : m < 2 ^ 16) :
    rolloverLoop k (total, m) = (total % 60000, (m + total / 60000) % 2 ^ 16) := by
  have stops {total m : Nat} (h : total < 60000) (hm : m < 2 ^ 16) :
      (total, m) = (total % 60000, (m + total / 60000) % 2 ^ 16) := by
    rw [Nat.mod_eq_of_lt h, Nat.div_eq_of_lt h, Nat.add_zero, Nat.mod_eq_of_lt hm]
  induction k generalizing total m with
  | zero => exact stops ht hm
  | succ k ih =>
    simp only [rolloverLoop]
    split <;> rename_i h
    · rw [ih (by omega) (Nat.mod_lt _ (by decide)), Prod.mk.injEq]
      constructor <;> omega
    · exact stops (Nat.lt_of_not_le h) hm

/-- Minutes and milliseconds as one count: an advance adds `n`, modulo `60000 * 2^16`. -/
theorem advance_count (n : Nat) (c : Clock) :
    60000 * (c.advance n).minutes.toNat + (c.advance n).milliseconds.toNat =
      (60000 * c.minutes.toNat + c.milliseconds.toNat + n) % (60000 * 2 ^ 16) := by
  rw [advance_minutes_toNat, advance_milliseconds_toNat]
  omega

/-- The millisecond field stays below 60000 in every command: the two that write the clock advance it. -/
theorem effect_clock_inRange (i : Instr) (h : s.clock.InRange) : (effect i s).clock.InRange := by
  by_cases hc : (effect i s).clock = s.clock
  · rwa [hc]
  · obtain ⟨n, rfl⟩ | rfl := writer_of_clock hc
    · exact s.clock.advance_inRange _
    · exact s.clock.advance_inRange _

/-- Settles O34: loop and advance are the same quotient and remainder; the step lemma is that of `effect`. -/
theorem clockAdvanceIsTheRolloverLoop : Obligations.ClockAdvanceIsTheRolloverLoop := by
  constructor
  · intro s n hs hms
    have htotal : s.clock.milliseconds.toNat + n.toNat < 60000 * (3 + 1) := by omega
    refine ⟨_, exec_clockAdvance n hs, ?_, advance_count n.toNat s.clock⟩
    rw [rolloverLoop_eq 3 htotal s.clock.minutes.isLt]
    exact Prod.ext (advance_milliseconds_toNat _ _) (advance_minutes_toNat _ _)
  · intro s t h hst
    obtain ⟨-, ⟨-, rfl⟩ | ⟨c, rest, -, ⟨r, rfl⟩ | ⟨i, v, -, -, -, rfl⟩⟩⟩ := step_inversion hst
    · exact h
    · exact h
    · exact effect_clock_inRange (s := s.accept c rest) i h

/-- Settles O35, from the equation of CLOCK_UPDATE and what retiring everything pending does. -/
theorem clockUpdateConsumesThePendingTicks : Obligations.ClockUpdateConsumesThePendingTicks := by
  refine ⟨decode_encode .clockUpdate, reservedBitsRefused .clockUpdate, wrongAgentRefused Agent.noConfusion,
    fun s hs hl => ⟨s.acc.pending s.cfg.W, pending_cast s.cfg.W s.acc, ?_, retireBy_pending (Config.legal_width hl)⟩⟩
  exact exec_reply_to_consumer (exec_clockUpdate hs) hs

end Sys2Proof.Machine

/-! ## The interval, R150 to R167

INTERVAL_ELAPSED and CONSUME_INTERVAL by the time since the deadline: below the length the interval has elapsed, else it
has not. -/

namespace Sys2Proof.Machine

variable {s : State}

/-- Settles O36, from the equation of START_INTERVAL and its refusal. -/
theorem startIntervalArmsTheDeadline : Obligations.StartIntervalArmsTheDeadline := by
  refine ⟨fun n => ?_, reservedBitsRefused .startInterval, fun _ => wrongAgentRefused Agent.noConfusion,
    fun s hs hl => ⟨?_, fun n hn =>
      ⟨_, armed_deadline_toNat s.cfg.R (Config.legal_bound hl) s.clock.milliseconds n, ?_⟩⟩⟩
  · rw [← encode_startInterval, decode_encode]
  · rw [exec_startInterval_zero hs]
    exact refusedWith_refuse _ s
  · exact exec_reply_to_consumer (exec_startInterval hn hs) hs

/-- A length that some time is below is not 0, so an interval is armed (R34). -/
theorem armed_of_lt {a : Alarm} {d : Nat} (h : d < a.intervalLength.toNat) : a.intervalLength ≠ 0#16 := by
  intro h0
  simp [h0] at h

theorem exec_intervalElapsed_eq (hs : s.issuer = .consumer) (ha : s.alarm.intervalLength ≠ 0#16) :
    exec .intervalElapsed s = .next { s with
      results := s.results ++ [⟨.consumer,
        if s.alarm.sinceDeadline s.cfg.R.toNat s.clock.milliseconds < s.alarm.intervalLength.toNat then 1#32
        else 0#32⟩] } := by
  rw [exec_reply_to_consumer (exec_intervalElapsed ha hs) hs, boolResult]
  simp only [elapsed_iff]

theorem exec_intervalElapsed_of_lt (hs : s.issuer = .consumer)
    (h : s.alarm.sinceDeadline s.cfg.R.toNat s.clock.milliseconds < s.alarm.intervalLength.toNat) :
    exec .intervalElapsed s = .next { s with results := s.results ++ [⟨.consumer, 1#32⟩] } := by
  rw [exec_intervalElapsed_eq hs (armed_of_lt h), if_pos h]

theorem exec_intervalElapsed_of_not_lt (hs : s.issuer = .consumer) (ha : s.alarm.intervalLength ≠ 0#16)
    (h : ¬ s.alarm.sinceDeadline s.cfg.R.toNat s.clock.milliseconds < s.alarm.intervalLength.toNat) :
    exec .intervalElapsed s = .next { s with results := s.results ++ [⟨.consumer, 0#32⟩] } := by
  rw [exec_intervalElapsed_eq hs ha, if_neg h]

theorem exec_consumeInterval_of_lt (hs : s.issuer = .consumer)
    (h : s.alarm.sinceDeadline s.cfg.R.toNat s.clock.milliseconds < s.alarm.intervalLength.toNat) :
    exec .consumeInterval s = .next { s with
      alarm := s.alarm.rearmed s.cfg.R.toNat, results := s.results ++ [⟨.consumer, 1#32⟩] } :=
  exec_reply_to_consumer (exec_consumeInterval_of_elapsed (armed_of_lt h) ((elapsed_iff _ _ _).2 h) hs) hs

theorem exec_consumeInterval_of_not_lt (hs : s.issuer = .consumer) (ha : s.alarm.intervalLength ≠ 0#16)
    (h : ¬ s.alarm.sinceDeadline s.cfg.R.toNat s.clock.milliseconds < s.alarm.intervalLength.toNat) :
    exec .consumeInterval s = .next { s with results := s.results ++ [⟨.consumer, 0#32⟩] } :=
  exec_reply_to_consumer (exec_consumeInterval_of_not_elapsed ha (mt (elapsed_iff _ _ _).1 h) hs) hs

/-- R155's comparison in the integers is the model's. -/
theorem emod_lt_iff_sinceDeadline_lt {R : Nat} (hR : 0 < R) (ms : Half) (a : Alarm) (n : Nat) :
    ((ms.toNat : Int) - a.nextIntervalDeadline.toNat) % R < n ↔ a.sinceDeadline R ms < n := by
  rw [← sinceDeadline_cast hR, Int.ofNat_lt]

/-- Settles O37: armed, the result is R155's comparison; not armed, the command is refused. -/
theorem intervalElapsedComparesTheResidue : Obligations.IntervalElapsedComparesTheResidue := by
  refine ⟨decode_encode .intervalElapsed, reservedBitsRefused .intervalElapsed, wrongAgentRefused Agent.noConfusion,
    fun s hs hl => ⟨fun h0 => ?_, fun ha => ?_⟩⟩
  · rw [exec_intervalElapsed_unarmed h0 hs]
    exact refusedWith_refuse _ s
  · simp only [emod_lt_iff_sinceDeadline_lt (Config.legal_bound hl)]
    exact exec_intervalElapsed_eq hs ha

/-- Settles O38: the three cases of CONSUME_INTERVAL. -/
theorem consumeIntervalMovesTheDeadline : Obligations.ConsumeIntervalMovesTheDeadline := by
  refine ⟨decode_encode .consumeInterval, reservedBitsRefused .consumeInterval, wrongAgentRefused Agent.noConfusion,
    fun s hs hl => ?_⟩
  have hR := Config.legal_bound hl
  have hiff := emod_lt_iff_sinceDeadline_lt hR s.clock.milliseconds s.alarm s.alarm.intervalLength.toNat
  refine ⟨fun h0 => ?_, fun _ h => ?_, fun ha h => ?_⟩
  · rw [exec_consumeInterval_unarmed h0 hs]
    exact refusedWith_refuse _ s
  · exact ⟨_, rearmed_deadline_toNat s.cfg.R hR s.alarm, exec_consumeInterval_of_lt hs (hiff.1 h)⟩
  · exact exec_consumeInterval_of_not_lt hs ha (mt hiff.2 h)

/-- Settles O42: a residue modulo `R` is below every length of at least `R`. -/
theorem intervalOfAtLeastTheBoundIsAlwaysElapsed : Obligations.IntervalOfAtLeastTheBoundIsAlwaysElapsed := by
  intro s hs hl hlen
  have hR := Config.legal_bound hl
  have h := (sinceDeadline_lt hR s.clock.milliseconds s.alarm).trans_le hlen
  refine ⟨exec_intervalElapsed_of_lt hs h, _, ?_, exec_consumeInterval_of_lt hs h⟩
  rw [Nat.add_mod_mod]
  exact rearmed_deadline_toNat s.cfg.R hR s.alarm

/-! ### The time since the deadline over advances, R160 and R166 -/

/-- R160: an advance by `n` adds `n` to the time since the deadline and takes off 60000 for each rollover. -/
theorem sinceDeadline_advance {R : Nat} (hR : 0 < R) (n : Nat) (c : Clock) (a : Alarm) :
    (a.sinceDeadline R (c.advance n).milliseconds : Int) =
      ((a.sinceDeadline R c.milliseconds : Int) + n - 60000 * ((c.milliseconds.toNat + n) / 60000 : Nat)) %
        (R : Int) := by
  have hms : ((c.advance n).milliseconds.toNat : Int) =
      c.milliseconds.toNat + n - 60000 * ((c.milliseconds.toNat + n) / 60000 : Nat) := by
    rw [advance_milliseconds_toNat]
    omega
  rw [sinceDeadline_cast hR, sinceDeadline_cast hR, hms, add_sub_assoc (_ % _), Int.emod_add_emod]
  congr 1
  ring

/-- With `R = 60000` the rollovers do not show: the time since the deadline goes up with the clock. -/
theorem sinceDeadline_advance_60000 (n : Nat) (c : Clock) (a : Alarm) :
    a.sinceDeadline 60000 (c.advance n).milliseconds = (a.sinceDeadline 60000 c.milliseconds + n) % 60000 := by
  have h := sinceDeadline_advance (R := 60000) (by decide) n c a
  omega

/-- Settles O39: CLOCK_ADVANCE writes neither the alarm nor the configuration. -/
theorem timeSinceDeadlineFollowsTheClock : Obligations.TimeSinceDeadlineFollowsTheClock := by
  intro s n hs hl _
  refine ⟨_, exec_clockAdvance n hs, sinceDeadline_advance (Config.legal_bound hl) n.toNat s.clock s.alarm,
    fun hR => ?_⟩
  simp only [State.reply_alarm, State.withClock_alarm, State.reply_cfg, State.withClock_cfg, hR]
  exact sinceDeadline_advance_60000 n.toNat s.clock s.alarm

theorem Clock.eq_of_toNat_eq {c d : Clock} (hms : c.milliseconds.toNat = d.milliseconds.toNat)
    (hmin : c.minutes.toNat = d.minutes.toNat) : c = d := by
  cases c
  cases d
  cases BitVec.eq_of_toNat_eq hms
  cases BitVec.eq_of_toNat_eq hmin
  rfl

theorem advance_zero {c : Clock} (h : c.InRange) : c.advance 0 = c := by
  have hmin := c.minutes.isLt
  apply Clock.eq_of_toNat_eq
  · rw [advance_milliseconds_toNat]
    omega
  · rw [advance_minutes_toNat]
    omega

/-- Advances add up, whatever minutes they cross. -/
theorem advance_advance (m n : Nat) (c : Clock) : (c.advance m).advance n = c.advance (m + n) := by
  apply Clock.eq_of_toNat_eq
  · simp only [advance_milliseconds_toNat]
    omega
  · simp only [advance_minutes_toNat, advance_milliseconds_toNat]
    omega

/-- The CLOCK_ADVANCE commands of a sequence of operands. -/
def advanceCommands (ns : List Half) : List Command := ns.map fun n => (Instr.clockAdvance n).issued

theorem after_clockAdvance (n : Half) (hs : s.issuer = .consumer) :
    s.after (Instr.clockAdvance n).issued =
      { s with clock := s.clock.advance n.toNat, results := s.results ++ [⟨.consumer, 0#32⟩] } := by
  rw [after_issued (i := .clockAdvance n) rfl]
  cases s
  cases hs
  rfl

/-- A run of advances is one advance by their sum, and returns a 0 for each. -/
theorem foldl_advanceCommands (ns : List Half) (hs : s.issuer = .consumer) (hc : s.clock.InRange) :
    (advanceCommands ns).foldl State.after s =
      { s with
        clock := s.clock.advance (ns.map BitVec.toNat).sum
        results := s.results ++ List.replicate ns.length ⟨.consumer, 0#32⟩ } := by
  induction ns generalizing s with
  | nil => simp [advanceCommands, advance_zero hc]
  | cons n ns ih =>
    rw [advanceCommands, List.map_cons, List.foldl_cons, after_clockAdvance n hs]
    refine (ih ?_ ?_).trans ?_
    · exact hs
    · exact s.clock.advance_inRange n.toNat
    · simp only [advance_advance, List.map_cons, List.sum_cons, List.append_assoc, List.length_cons,
        List.replicate_succ, List.singleton_append]

/-- Settles O41: the run is one advance, so it writes neither alarm nor configuration; what the two commands then answer
is their comparison. -/
theorem missedWindowStaysMissedUntilTheClockComesRound :
    Obligations.MissedWindowStaysMissedUntilTheClockComesRound := by
  intro s ns hinv hs hpos _ d _
  obtain ⟨hl, -, -, hclock, -⟩ := hinv
  have ha := armed_of_lt hpos
  have hrun := runCommands_eq_foldl (advanceCommands ns) hl
  rw [foldl_advanceCommands ns hs hclock] at hrun
  refine ⟨_, hrun, rfl, fun h => ⟨?_, ?_⟩, exec_intervalElapsed_of_lt hs, fun hR => ?_⟩
  · exact exec_intervalElapsed_of_not_lt hs ha (Nat.not_lt.2 h)
  · exact exec_consumeInterval_of_not_lt hs ha (Nat.not_lt.2 h)
  · simp only [d, hR]
    exact sinceDeadline_advance_60000 _ s.clock s.alarm

/-! ### Consuming again, R165 -/

/-- A consume takes the length off a smaller time since the deadline: modulo `R`, this wraps round once. -/
theorem sinceDeadline_rearmed_of_lt {R : Half} {ms : Half} {a : Alarm} (hb : a.intervalLength.toNat < R.toNat)
    (h : a.sinceDeadline R.toNat ms < a.intervalLength.toNat) :
    (a.rearmed R.toNat).sinceDeadline R.toNat ms + a.intervalLength.toNat = a.sinceDeadline R.toNat ms + R.toNat := by
  have hcast := sinceDeadline_rearmed R (Nat.zero_lt_of_lt hb) ms a
  rw [← Int.add_emod_right, Int.emod_eq_of_lt (by omega) (by omega)] at hcast
  omega

/-- A state of R165 with `R` below twice the length: the interval's deadline is now. -/
def longInterval : State := { State.reset with alarm := ⟨59999#16, 0#16⟩ }

/-- Settles O40: a consume leaves at least `R - length`, which is no less than the length if twice the length is at most
`R`; with the length one below `R` it leaves 1 ms, and a second consume succeeds. -/
theorem consumeIsIdempotentWithinItsWindow : Obligations.ConsumeIsIdempotentWithinItsWindow := by
  constructor
  · intro s hinv hs hpos hb d h
    have hR := Config.legal_bound hinv.1
    have hleft := sinceDeadline_rearmed_of_lt hb h
    refine ⟨_, exec_consumeInterval_of_lt hs h, rfl,
      ⟨sinceDeadline_rearmed s.cfg.R hR s.clock.milliseconds s.alarm, ?_⟩, fun htwice => ?_⟩
    · simp only
      omega
    · refine exec_consumeInterval_of_not_lt hs (armed_of_lt hpos) ?_
      simp only [rearmed_intervalLength]
      omega
  · exact ⟨longInterval, _, _, by decide, by decide, by decide, exec_consumeInterval_of_lt rfl (by decide),
      exec_consumeInterval_of_lt rfl (by decide), rfl, rfl⟩

end Sys2Proof.Machine

/-! ## One sample of the debouncer, R171 to R183

The result's bits 0 and 1 are the quadrature sub-machine's and bits 2 to 6 the button sub-machine's, so each sub-machine
is read off the result by itself. -/

namespace Sys2Proof.Machine

/-- Settles O45: the two step functions are the model's sub-machines. -/
theorem qdUpdateComposesTwoIndependentSubmachines : Obligations.QdUpdateComposesTwoIndependentSubmachines := by
  refine ⟨fun b q => ?_, reservedBitsRefused .qdUpdate, fun _ _ => wrongAgentRefused Agent.noConfusion,
    fun d x b => x.step d.toNat b, fun m x q => x.step m q, fun s b q hs => ?_⟩
  · rw [← encode_qdUpdate, decode_encode]
  · exact exec_reply_to_consumer (exec_qdUpdate b q hs) hs

/-! ### The events of each sub-machine -/

/-- The choices of R183 for the quadrature sub-machine. -/
def rotationEvents : List Word := [0x00#32, 0x01#32, 0x02#32]

/-- The choices of R183 for the button sub-machine. -/
def buttonEvents : List Word := [0x00#32, 0x04#32, 0x08#32, 0x10#32, 0x20#32, 0x40#32, 0x24#32, 0x44#32]

theorem quadStep_event_mem (m : RotMode) (q : BitVec 2) (x : Quad) : (x.step m q).2 ∈ rotationEvents := by
  show (rotationOf _).event ∈ rotationEvents
  cases rotationOf (shiftedWindow x.quadNyb q) <;> decide

theorem unvalidatedEvent_mem (sr : Byte) : unvalidatedEvent sr ∈ [0#32, evChangeUnvalidated] := by
  unfold unvalidatedEvent
  split <;> decide

theorem held_event_mem (d : Nat) (x : Button) : (x.held d).2 ∈ [0#32, evHoldTick, evHoldSaturated] := by
  unfold Button.held
  split
  · split <;> simp
  · simp

theorem unvalidated_or_held_mem :
    ∀ u ∈ [0#32, evChangeUnvalidated], ∀ h ∈ [0#32, evHoldTick, evHoldSaturated], u ||| h ∈ buttonEvents := by
  simp [buttonEvents, evChangeUnvalidated, evHoldTick, evHoldSaturated]

/-- A sample that presses the button: the history is all 1s, so it is not reported as unvalidated. -/
theorem step_of_press {d : Nat} {b : Bool} {x : Button} (hst : x.btnState = .released)
    (hsr : shiftedHistory x.btnShift b = 0xFF#8) : x.step d b = (⟨0xFF#8, .pressed, 0#8, 0#8⟩, evPress) := by
  rw [step_of_transition (transition_eq_some_iff.2 (.inl ⟨hst, rfl, hsr⟩)), hsr]
  rfl

/-- A sample that releases it: the history is all 0s. -/
theorem step_of_release {d : Nat} {b : Bool} {x : Button} (hst : x.btnState = .pressed)
    (hsr : shiftedHistory x.btnShift b = 0x00#8) : x.step d b = (⟨0x00#8, .released, 0#8, 0#8⟩, evRelease) := by
  rw [step_of_transition (transition_eq_some_iff.2 (.inr ⟨hst, rfl, hsr⟩)), hsr]
  rfl

/-- A sample presses the button, releases it, or leaves the state and lets the hold divider run. -/
theorem step_cases (b : Bool) (x : Button) :
    (x.btnState = .released ∧ shiftedHistory x.btnShift b = 0xFF#8) ∨
      (x.btnState = .pressed ∧ shiftedHistory x.btnShift b = 0x00#8) ∨
      x.btnState.transition (shiftedHistory x.btnShift b) = none := by
  cases ht : x.btnState.transition (shiftedHistory x.btnShift b) with
  | some st =>
    obtain ⟨hst, -, hsr⟩ | ⟨hst, -, hsr⟩ := transition_eq_some_iff.1 ht
    · exact .inl ⟨hst, hsr⟩
    · exact .inr (.inl ⟨hst, hsr⟩)
  | none => exact .inr (.inr rfl)

theorem buttonStep_event_mem (d : Nat) (b : Bool) (x : Button) : (x.step d b).2 ∈ buttonEvents := by
  obtain ⟨hst, hsr⟩ | ⟨hst, hsr⟩ | ht := step_cases b x
  · rw [step_of_press hst hsr]
    decide
  · rw [step_of_release hst hsr]
    decide
  · rw [step_of_no_transition ht]
    exact unvalidated_or_held_mem _ (unvalidatedEvent_mem _) _ (held_event_mem d _)

/-- R183 as bits of the result. -/
theorem events_limited : ∀ r ∈ rotationEvents, ∀ e ∈ buttonEvents,
    (e ||| r).toNat < 128 ∧
      ¬ ((e ||| r).getLsbD 0 = true ∧ (e ||| r).getLsbD 1 = true) ∧
      ¬ ((e ||| r).getLsbD 2 = true ∧ (e ||| r).getLsbD 3 = true) ∧
      ¬ ((e ||| r).getLsbD 2 = true ∧ (e ||| r).getLsbD 4 = true) ∧
      ¬ ((e ||| r).getLsbD 3 = true ∧ (e ||| r).getLsbD 4 = true) ∧
      ¬ ((e ||| r).getLsbD 5 = true ∧ (e ||| r).getLsbD 6 = true) ∧
      ((e ||| r).getLsbD 3 = true ∨ (e ||| r).getLsbD 4 = true →
        (e ||| r).getLsbD 5 = false ∧ (e ||| r).getLsbD 6 = false) := by
  simp [rotationEvents, buttonEvents]

/-- Buttons and samples that report each of the choices of R183, with `UI_DIV = 20`. -/
def buttonWitnesses : List (Button × Bool) :=
  [(⟨0x00#8, .released, 0#8, 0#8⟩, false), (⟨0x00#8, .released, 0#8, 0#8⟩, true),
   (⟨0x7F#8, .released, 0#8, 0#8⟩, true), (⟨0x80#8, .pressed, 0#8, 0#8⟩, false),
   (⟨0x00#8, .released, 0#8, 19#8⟩, false), (⟨0x00#8, .released, 255#8, 19#8⟩, false),
   (⟨0x00#8, .released, 0#8, 19#8⟩, true), (⟨0x00#8, .released, 255#8, 19#8⟩, true)]

theorem buttonWitnesses_inv : ∀ p ∈ buttonWitnesses, p.1.InRange 20 ∧ p.1.Settled := by decide

theorem buttonWitnesses_events : buttonWitnesses.map (fun p => (p.1.step 20 p.2).2) = buttonEvents := by decide

/-- The first sample after reset reports each rotation. -/
theorem rotationEvents_after_reset :
    [0b00#2, 0b01#2, 0b10#2].map (fun q => (State.reset.quad.step State.reset.cfg.ROT_MODE q).2) = rotationEvents := by
  decide

/-- Settles O50: each sub-machine reports one of its choices, and from the reset state with a chosen button any two
choices are reported together. -/
theorem coincidentEventsAreLimited : Obligations.CoincidentEventsAreLimited := by
  constructor
  · intro s b q hs
    exact ⟨_, _, exec_reply_to_consumer (exec_qdUpdate b q hs) hs, rfl,
      events_limited _ (quadStep_event_mem _ _ _) _ (buttonStep_event_mem _ _ _)⟩
  · intro rotation (hr : rotation ∈ rotationEvents) button (hb : button ∈ buttonEvents)
    rw [← rotationEvents_after_reset] at hr
    rw [← buttonWitnesses_events] at hb
    obtain ⟨q, -, rfl⟩ := List.mem_map.1 hr
    obtain ⟨⟨x, b⟩, hx, rfl⟩ := List.mem_map.1 hb
    obtain ⟨hrange, hsettled⟩ := buttonWitnesses_inv _ hx
    have hreset : State.reset.Inv := by decide
    refine ⟨State.reset.withButton x, b, q, _, hreset.withButton hrange, hsettled, rfl,
      exec_reply_to_consumer (exec_qdUpdate b q rfl) rfl, ?_⟩
    rw [BitVec.or_comm]
    rfl

/-! ### Each sub-machine read off the result -/

theorem rotationEvents_high {r : Word} (h : r ∈ rotationEvents) {i : Nat} (hi : 2 ≤ i) : r.getLsbD i = false := by
  have hr : ∀ r ∈ rotationEvents, r.toNat < 2 ^ 2 := by simp [rotationEvents]
  exact Nat.testBit_lt_two_pow ((hr r h).trans_le (Nat.pow_le_pow_right (by decide) hi))

theorem buttonEvents_low : ∀ e ∈ buttonEvents, e.getLsbD 0 = false ∧ e.getLsbD 1 = false := by
  simp [buttonEvents]

/-- Bits 2 and up of a result are the button sub-machine's. -/
theorem result_high (d : Nat) (b : Bool) (x : Button) (m : RotMode) (q : BitVec 2) (y : Quad) {i : Nat} (hi : 2 ≤ i) :
    ((x.step d b).2 ||| (y.step m q).2).getLsbD i = (x.step d b).2.getLsbD i := by
  rw [BitVec.getLsbD_or, rotationEvents_high (quadStep_event_mem m q y) hi, Bool.or_false]

/-- Bits 0 and 1 are the quadrature sub-machine's. -/
theorem result_low (d : Nat) (b : Bool) (x : Button) (m : RotMode) (q : BitVec 2) (y : Quad) :
    ((x.step d b).2 ||| (y.step m q).2).getLsbD 0 = (y.step m q).2.getLsbD 0 ∧
      ((x.step d b).2 ||| (y.step m q).2).getLsbD 1 = (y.step m q).2.getLsbD 1 := by
  obtain ⟨h0, h1⟩ := buttonEvents_low _ (buttonStep_event_mem d b x)
  rw [BitVec.getLsbD_or, BitVec.getLsbD_or, h0, h1, Bool.false_or, Bool.false_or]
  exact ⟨rfl, rfl⟩

/-! ### The rotation count, R181 and R182 -/

theorem delta_of_clockwise : ∀ n ∈ [0b0001#4, 0b0111#4, 0b1000#4, 0b1110#4], (rotationOf n).delta = 1 := by decide

theorem delta_of_counterclockwise :
    ∀ n ∈ [0b0010#4, 0b0100#4, 0b1011#4, 0b1101#4], (rotationOf n).delta = -1 := by decide

theorem delta_of_other : ∀ n : BitVec 4, n ∉ [0b0001#4, 0b0111#4, 0b1000#4, 0b1110#4] →
    n ∉ [0b0010#4, 0b0100#4, 0b1011#4, 0b1101#4] → (rotationOf n).delta = 0 := by decide

theorem rotated_wrap_toInt : ∀ c : Byte,
    (rotated .wrap c 1).toInt = (if c.toInt = 127 then -128 else c.toInt + 1) ∧
      (rotated .wrap c (-1)).toInt = (if c.toInt = -128 then 127 else c.toInt - 1) := by decide

theorem rotated_saturate_toInt : ∀ c : Byte,
    (rotated .saturate c 1).toInt = (if c.toInt = 127 then 127 else c.toInt + 1) ∧
      (rotated .saturate c (-1)).toInt = (if c.toInt = -128 then -128 else c.toInt - 1) := by decide

theorem quadStep_rotationCount (m : RotMode) (q : BitVec 2) (x : Quad) :
    (x.step m q).1.rotationCount = rotated m x.rotationCount (rotationOf (x.step m q).1.quadNyb).delta := rfl

/-- Settles O47: the decode of the new window sets the two bits, and its change of the count is 1, -1 or 0. -/
theorem qdUpdateDecodesTheRotation : Obligations.QdUpdateDecodesTheRotation := by
  intro s b q hs
  refine ⟨_, _, exec_reply_to_consumer (exec_qdUpdate b q hs) hs, rfl, rfl, rfl, rfl, rfl, rfl,
    shiftedWindow_toNat s.quad.quadNyb q, ?_⟩
  intro cw ccw old new
  obtain ⟨hbit0, hbit1⟩ := result_low s.cfg.UI_DIV.toNat b s.button s.cfg.ROT_MODE q s.quad
  obtain ⟨hcw, hccw, -⟩ := rotationOf_event (s.quad.step s.cfg.ROT_MODE q).1.quadNyb
  have hnew {k : Int} (hk : (rotationOf (s.quad.step s.cfg.ROT_MODE q).1.quadNyb).delta = k) :
      new = (rotated s.cfg.ROT_MODE s.quad.rotationCount k).toInt :=
    congrArg BitVec.toInt ((quadStep_rotationCount _ _ _).trans (congrArg _ hk))
  rw [hbit0, hbit1]
  refine ⟨hcw, hccw, fun h1 h2 => ?_, fun hm => ⟨fun h => ?_, fun h => ?_⟩,
    fun hm => ⟨fun h => ?_, fun h => ?_⟩⟩
  · rw [hnew (delta_of_other _ h1 h2), rotated_zero]
  · rw [hnew (delta_of_clockwise _ h), hm]
    exact (rotated_wrap_toInt _).1
  · rw [hnew (delta_of_counterclockwise _ h), hm]
    exact (rotated_wrap_toInt _).2
  · rw [hnew (delta_of_clockwise _ h), hm]
    exact (rotated_saturate_toInt _).1
  · rw [hnew (delta_of_counterclockwise _ h), hm]
    exact (rotated_saturate_toInt _).2

end Sys2Proof.Machine

/-! ### The debounced state and the hold count, R172 to R176 -/

namespace Sys2Proof.Machine

/-- A saturated history has no CHANGE_UNVALIDATED; bits 3 to 6 are not this event's. -/
theorem unvalidatedEvent_bits (sr : Byte) :
    ((unvalidatedEvent sr).getLsbD 2 = true ↔ sr ≠ 0x00#8 ∧ sr ≠ 0xFF#8) ∧
      ∀ i, 3 ≤ i → (unvalidatedEvent sr).getLsbD i = false := by
  unfold unvalidatedEvent
  split <;> rename_i h
  · refine ⟨iff_of_false (by simp) fun hne => ?_, fun i _ => BitVec.getLsbD_zero⟩
    exact h.elim hne.1 hne.2
  · refine ⟨iff_of_true (by decide) (not_or.1 h), fun i hi => ?_⟩
    exact Nat.testBit_lt_two_pow (Nat.pow_lt_pow_right (by decide : 1 < 2) hi)

/-- The hold events are none of bits 2 to 4 (R44). -/
theorem held_event_bits (d : Nat) (x : Button) :
    (x.held d).2.getLsbD 2 = false ∧ (x.held d).2.getLsbD 3 = false ∧ (x.held d).2.getLsbD 4 = false := by
  have hbits : ∀ h ∈ [0#32, evHoldTick, evHoldSaturated],
      h.getLsbD 2 = false ∧ h.getLsbD 3 = false ∧ h.getLsbD 4 = false := by
    simp [evHoldTick, evHoldSaturated]
  exact hbits _ (held_event_mem d x)

/-- Without a transition, bit 2 is the history's and bits 3 and up are the hold divider's. -/
theorem step_events_of_no_transition {d : Nat} {b : Bool} {x : Button}
    (h : x.btnState.transition (shiftedHistory x.btnShift b) = none) :
    (x.step d b).2.getLsbD 2 = (unvalidatedEvent (shiftedHistory x.btnShift b)).getLsbD 2 ∧
      ∀ i, 3 ≤ i → (x.step d b).2.getLsbD i =
        (Button.held d { x with btnShift := shiftedHistory x.btnShift b }).2.getLsbD i := by
  rw [step_of_no_transition h]
  refine ⟨?_, fun i hi => ?_⟩
  · rw [BitVec.getLsbD_or, (held_event_bits d _).1, Bool.or_false]
  · rw [BitVec.getLsbD_or, (unvalidatedEvent_bits _).2 i hi, Bool.false_or]

theorem step_unvalidated_iff (d : Nat) (b : Bool) (x : Button) :
    (x.step d b).2.getLsbD 2 = true ↔
      shiftedHistory x.btnShift b ≠ 0x00#8 ∧ shiftedHistory x.btnShift b ≠ 0xFF#8 := by
  obtain ⟨hst, hsr⟩ | ⟨hst, hsr⟩ | ht := step_cases b x
  · rw [step_of_press hst hsr, hsr]
    decide
  · rw [step_of_release hst hsr, hsr]
    decide
  · rw [(step_events_of_no_transition ht).1]
    exact (unvalidatedEvent_bits _).1

theorem step_press_iff (d : Nat) (b : Bool) (x : Button) :
    (x.step d b).2.getLsbD 3 = true ↔ x.btnState = .released ∧ shiftedHistory x.btnShift b = 0xFF#8 := by
  obtain ⟨hst, hsr⟩ | ⟨hst, hsr⟩ | ht := step_cases b x
  · rw [step_of_press hst hsr, hst, hsr]
    decide
  · rw [step_of_release hst hsr, hst, hsr]
    decide
  · rw [(step_events_of_no_transition ht).2 3 le_rfl, (held_event_bits d _).2.1]
    exact iff_of_false Bool.false_ne_true fun h => (transition_eq_none_iff.1 ht).1 h.1 h.2

theorem step_release_iff (d : Nat) (b : Bool) (x : Button) :
    (x.step d b).2.getLsbD 4 = true ↔ x.btnState = .pressed ∧ shiftedHistory x.btnShift b = 0x00#8 := by
  obtain ⟨hst, hsr⟩ | ⟨hst, hsr⟩ | ht := step_cases b x
  · rw [step_of_press hst hsr, hst, hsr]
    decide
  · rw [step_of_release hst hsr, hst, hsr]
    decide
  · rw [(step_events_of_no_transition ht).2 4 (by decide), (held_event_bits d _).2.2]
    exact iff_of_false Bool.false_ne_true fun h => (transition_eq_none_iff.1 ht).2 h.1 h.2

/-! The three branches of the hold divider (R176), in a sample that leaves the debounced state. -/

section

variable {d : Nat} {b : Bool} {x : Button}

theorem ofNat_succ_toNat {c : Byte} {n : Nat} (h : c.toNat < n) (hn : n < 256) :
    (BitVec.ofNat 8 (c.toNat + 1)).toNat = c.toNat + 1 := by
  rw [BitVec.toNat_ofNat]
  omega

theorem held_of_running (h : x.holdDiv.toNat + 1 ≠ d) :
    x.held d = ({ x with holdDiv := BitVec.ofNat 8 (x.holdDiv.toNat + 1) }, 0#32) := if_neg h

theorem held_of_tick (h : x.holdDiv.toNat + 1 = d) (hc : x.holdCount.toNat < 255) :
    x.held d =
      ({ x with holdDiv := 0#8, holdCount := BitVec.ofNat 8 (x.holdCount.toNat + 1) }, evHoldTick) :=
  (if_pos h).trans (if_pos hc)

theorem held_of_saturated (h : x.holdDiv.toNat + 1 = d) (hc : ¬ x.holdCount.toNat < 255) :
    x.held d = ({ x with holdDiv := 0#8 }, evHoldSaturated) :=
  (if_pos h).trans (if_neg hc)

theorem step_of_held {y : Button} {e : Word} (ht : x.btnState.transition (shiftedHistory x.btnShift b) = none)
    (h : Button.held d { x with btnShift := shiftedHistory x.btnShift b } = (y, e)) :
    (x.step d b).1 = y ∧ (x.step d b).2.getLsbD 5 = e.getLsbD 5 ∧ (x.step d b).2.getLsbD 6 = e.getLsbD 6 := by
  rw [(step_events_of_no_transition ht).2 5 (by decide), (step_events_of_no_transition ht).2 6 (by decide),
    step_of_no_transition ht, h]
  exact ⟨rfl, rfl, rfl⟩

theorem step_of_running (ht : x.btnState.transition (shiftedHistory x.btnShift b) = none)
    (h : x.holdDiv.toNat + 1 ≠ d) (hx : x.InRange d) (hd : d < 256) :
    (x.step d b).1.holdDiv.toNat = x.holdDiv.toNat + 1 ∧ (x.step d b).1.holdCount = x.holdCount ∧
      (x.step d b).2.getLsbD 5 = false ∧ (x.step d b).2.getLsbD 6 = false := by
  obtain ⟨hnext, h5, h6⟩ := step_of_held ht (held_of_running h)
  rw [hnext, h5, h6]
  exact ⟨ofNat_succ_toNat hx hd, rfl, by decide⟩

theorem step_of_tick (ht : x.btnState.transition (shiftedHistory x.btnShift b) = none)
    (h : x.holdDiv.toNat + 1 = d) (hc : x.holdCount.toNat < 255) :
    (x.step d b).1.holdDiv = 0#8 ∧ (x.step d b).1.holdCount.toNat = x.holdCount.toNat + 1 ∧
      (x.step d b).2.getLsbD 5 = true ∧ (x.step d b).2.getLsbD 6 = false := by
  obtain ⟨hnext, h5, h6⟩ := step_of_held ht (held_of_tick h hc)
  rw [hnext, h5, h6]
  exact ⟨rfl, ofNat_succ_toNat hc (by decide), by decide⟩

theorem step_of_saturated (ht : x.btnState.transition (shiftedHistory x.btnShift b) = none)
    (h : x.holdDiv.toNat + 1 = d) (hc : ¬ x.holdCount.toNat < 255) :
    (x.step d b).1.holdDiv = 0#8 ∧ (x.step d b).1.holdCount = x.holdCount ∧
      (x.step d b).2.getLsbD 5 = false ∧ (x.step d b).2.getLsbD 6 = true := by
  obtain ⟨hnext, h5, h6⟩ := step_of_held ht (held_of_saturated h hc)
  rw [hnext, h5, h6]
  exact ⟨rfl, rfl, by decide⟩

theorem step_btnState_of_no_transition (ht : x.btnState.transition (shiftedHistory x.btnShift b) = none) :
    (x.step d b).1.btnState = x.btnState := by
  rw [step_of_no_transition ht, held_btnState]

end

/-- Settles O46: a sample presses, releases, or leaves the state and runs the hold divider by one of three branches. -/
theorem qdUpdateDebouncesTheButton : Obligations.QdUpdateDebouncesTheButton := by
  intro s b q hs hrange
  refine ⟨_, _, exec_reply_to_consumer (exec_qdUpdate b q hs) hs, rfl, rfl, rfl, rfl, rfl, rfl, ?_⟩
  have hhigh {i : Nat} (hi : 2 ≤ i) := result_high s.cfg.UI_DIV.toNat b s.button s.cfg.ROT_MODE q s.quad hi
  simp only [State.withQuad_button, State.withButton_button, step_btnShift]
  rw [hhigh le_rfl, hhigh (i := 3) (by decide), hhigh (i := 4) (by decide), hhigh (i := 5) (by decide),
    hhigh (i := 6) (by decide)]
  refine ⟨shiftedHistory_toNat _ _, step_unvalidated_iff _ b _, step_press_iff _ b _, step_release_iff _ b _,
    fun ⟨hst, hsr⟩ => ?_, fun ⟨hst, hsr⟩ => ?_, ?_, fun hpress hrelease => ?_⟩
  · rw [step_of_press hst hsr]
  · rw [step_of_release hst hsr]
  · rintro (⟨hst, hsr⟩ | ⟨hst, hsr⟩)
    · rw [step_of_press hst hsr]
      decide
    · rw [step_of_release hst hsr]
      decide
  · have ht := transition_eq_none_iff.2 ⟨fun h1 h2 => hpress ⟨h1, h2⟩, fun h1 h2 => hrelease ⟨h1, h2⟩⟩
    refine ⟨step_btnState_of_no_transition ht, fun h => ⟨?_, fun hc => (step_of_tick ht h hc).2,
      fun hc => (step_of_saturated ht h hc).2⟩, fun h => step_of_running ht h hrange s.cfg.UI_DIV.isLt⟩
    by_cases hc : s.button.holdCount.toNat < 255
    · exact (step_of_tick ht h hc).1
    · exact (step_of_saturated ht h hc).1

end Sys2Proof.Machine

/-! ### Runs of samples, R177 and R178

Both laws are about the raw button samples only: the button after them, and the events it reports. -/

namespace Sys2Proof.Machine

variable {s : State}

/-- The button sub-machine after a sequence of raw bits. -/
def Button.sampled (d : Nat) (x : Button) (bs : List Bool) : Button := bs.foldl (fun y b => (y.step d b).1) x

/-- The button events of the raw bits, one word a sample. -/
def Button.events (d : Nat) : Button → List Bool → List Word
  | _, [] => []
  | x, b :: bs => (x.step d b).2 :: Button.events d (x.step d b).1 bs

theorem sampled_concat (d : Nat) (x : Button) (bs : List Bool) (b : Bool) :
    x.sampled d (bs ++ [b]) = ((x.sampled d bs).step d b).1 :=
  List.foldl_concat _ _ _ _

theorem events_concat (d : Nat) (x : Button) (bs : List Bool) (b : Bool) :
    x.events d (bs ++ [b]) = x.events d bs ++ [((x.sampled d bs).step d b).2] := by
  induction bs generalizing x with
  | nil => rfl
  | cons c bs ih => exact congrArg _ (ih (x.step d c).1)

theorem events_length (d : Nat) (x : Button) (bs : List Bool) : (x.events d bs).length = bs.length := by
  induction bs generalizing x with
  | nil => rfl
  | cons b bs ih => exact congrArg Nat.succ (ih (x.step d b).1)

theorem after_qdUpdate (b : Bool) (q : BitVec 2) (s : State) :
    s.after (Instr.qdUpdate b q).issued = { s with
      button := (s.button.step s.cfg.UI_DIV.toNat b).1
      quad := (s.quad.step s.cfg.ROT_MODE q).1
      issuer := .consumer
      results := s.results ++
        [⟨.consumer, (s.button.step s.cfg.UI_DIV.toNat b).2 ||| (s.quad.step s.cfg.ROT_MODE q).2⟩] } := by
  rw [after_issued (i := .qdUpdate b q) rfl]
  rfl

/-- A run of samples takes the raw button bits into the button, whatever the quadrature samples are, and bits 2 and up
of its results are the button events. -/
theorem foldl_sampleCommands (samples : List (Bool × BitVec 2)) (s : State) :
    ((sampleCommands samples).foldl State.after s).button =
        s.button.sampled s.cfg.UI_DIV.toNat (samples.map Prod.fst) ∧
      ∃ new, ((sampleCommands samples).foldl State.after s).results = s.results ++ new ∧
        ∀ i, 2 ≤ i → new.map (fun r => r.value.getLsbD i) =
          (s.button.events s.cfg.UI_DIV.toNat (samples.map Prod.fst)).map fun e => e.getLsbD i := by
  induction samples generalizing s with
  | nil => exact ⟨rfl, [], (List.append_nil _).symm, fun _ _ => rfl⟩
  | cons p samples ih =>
    obtain ⟨b, q⟩ := p
    obtain ⟨hbutton, new, hnew, hbits⟩ := ih (s.after (Instr.qdUpdate b q).issued)
    rw [after_qdUpdate] at hbutton hnew hbits
    rw [sampleCommands, List.map_cons, List.foldl_cons, after_qdUpdate]
    refine ⟨hbutton, _ :: new, hnew.trans (List.append_assoc _ _ _), fun i hi => ?_⟩
    exact congrArg₂ List.cons (result_high _ b _ _ q _ hi) (hbits i hi)

/-- The same of the machine's own run. -/
theorem runCommands_sampleCommands (samples : List (Bool × BitVec 2)) (h : s.cfg.legal = true) :
    ∃ t new, runCommands (sampleCommands samples) s = .next t ∧ t.results = s.results ++ new ∧
      t.button = s.button.sampled s.cfg.UI_DIV.toNat (samples.map Prod.fst) ∧
      ∀ i, 2 ≤ i → new.map (fun r => r.value.getLsbD i) =
        (s.button.events s.cfg.UI_DIV.toNat (samples.map Prod.fst)).map fun e => e.getLsbD i := by
  obtain ⟨hbutton, new, hnew, hbits⟩ := foldl_sampleCommands samples s
  exact ⟨_, new, runCommands_eq_foldl _ h, hnew, hbutton, hbits⟩

/-- What holds of a bit of every result holds of that bit of every event. -/
theorem forall_mem_of_map_eq {α β γ : Type} {l : List α} {l' : List β} {f : α → γ} {g : β → γ}
    (h : l.map f = l'.map g) {P : γ → Prop} (hl : ∀ a ∈ l, P (f a)) : ∀ b ∈ l', P (g b) := by
  rw [← List.forall_mem_map, ← h, List.forall_mem_map]
  exact hl

theorem countP_eq_of_map_eq {α β : Type} {l : List α} {l' : List β} {f : α → Bool} {g : β → Bool}
    (h : l.map f = l'.map g) : l.countP f = l'.countP g := by
  have := congrArg (List.countP id) h
  rwa [List.countP_map, List.countP_map] at this

theorem countP_cons_toNat {α : Type} (f : α → Bool) (a : α) (l : List α) :
    (a :: l).countP f = (f a).toNat + l.countP f := by
  rw [List.countP_cons, Nat.add_comm]
  cases f a <;> rfl

/-! ### The hold count of a run, R177 -/

theorem transition_eq_none_iff_no_event {d : Nat} {b : Bool} {x : Button} :
    x.btnState.transition (shiftedHistory x.btnShift b) = none ↔
      (x.step d b).2.getLsbD 3 = false ∧ (x.step d b).2.getLsbD 4 = false := by
  rw [transition_eq_none_iff, ← Bool.not_eq_true, ← Bool.not_eq_true, step_press_iff, step_release_iff, not_and,
    not_and]

/-- One sample of the divider: it goes up by 1, and each hold event takes `d` off it. HOLD_TICK counts, and
HOLD_SATURATED is reported at the top of the count. -/
theorem step_hold_balance {d : Nat} {b : Bool} {x : Button} (hd : d < 256) (hx : x.InRange d)
    (ht : x.btnState.transition (shiftedHistory x.btnShift b) = none) :
    x.holdDiv.toNat + 1 = (x.step d b).1.holdDiv.toNat +
        d * (((x.step d b).2.getLsbD 5).toNat + ((x.step d b).2.getLsbD 6).toNat) ∧
      (x.step d b).1.holdCount.toNat = x.holdCount.toNat + ((x.step d b).2.getLsbD 5).toNat ∧
      ((x.step d b).2.getLsbD 6 = true → x.holdCount.toNat = 255) := by
  by_cases h : x.holdDiv.toNat + 1 = d
  · by_cases hc : x.holdCount.toNat < 255
    · obtain ⟨hdiv, hcount, h5, h6⟩ := step_of_tick ht h hc
      rw [hdiv, hcount, h5, h6]
      simp [h]
    · obtain ⟨hdiv, hcount, h5, h6⟩ := step_of_saturated ht h hc
      have htop : x.holdCount.toNat = 255 := by omega
      rw [hdiv, hcount, h5, h6]
      simp [h, htop]
  · obtain ⟨hdiv, hcount, h5, h6⟩ := step_of_running ht h hx hd
    rw [hdiv, hcount, h5, h6]
    simp

/-- The same over a run with no PRESS and no RELEASE, from any button. -/
theorem sampled_hold_balance {d : Nat} (hd : d < 256) {x : Button} (hx : x.InRange d) {bs : List Bool}
    (h3 : ∀ e ∈ x.events d bs, e.getLsbD 3 = false) (h4 : ∀ e ∈ x.events d bs, e.getLsbD 4 = false) :
    x.holdDiv.toNat + bs.length = (x.sampled d bs).holdDiv.toNat +
        d * ((x.events d bs).countP (·.getLsbD 5) + (x.events d bs).countP (·.getLsbD 6)) ∧
      (x.sampled d bs).holdDiv.toNat < d ∧
      (x.sampled d bs).holdCount.toNat = x.holdCount.toNat + (x.events d bs).countP (·.getLsbD 5) ∧
      (0 < (x.events d bs).countP (·.getLsbD 6) → (x.sampled d bs).holdCount.toNat = 255) := by
  induction bs generalizing x with
  | nil => exact ⟨by simp [Button.sampled, Button.events], hx, rfl, fun h => absurd h (by simp [Button.events])⟩
  | cons b bs ih =>
    obtain ⟨h3b, h3⟩ := List.forall_mem_cons.1 h3
    obtain ⟨h4b, h4⟩ := List.forall_mem_cons.1 h4
    obtain ⟨hdiv, hcount, htop⟩ := step_hold_balance hd hx (transition_eq_none_iff_no_event.2 ⟨h3b, h4b⟩)
    obtain ⟨ihdiv, ihlt, ihcount, ihtop⟩ := ih (step_inRange hd b hx) h3 h4
    have hmax := (x.sampled d (b :: bs)).holdCount.isLt
    have hnext : x.sampled d (b :: bs) = (x.step d b).1.sampled d bs := rfl
    rw [hnext] at hmax ⊢
    rw [Button.events, countP_cons_toNat, countP_cons_toNat, List.length_cons]
    refine ⟨by linarith, ihlt, by omega, fun h => ?_⟩
    by_cases h6 : (x.step d b).2.getLsbD 6 = true
    · have := htop h6
      omega
    · rw [Bool.not_eq_true] at h6
      rw [h6] at h
      exact ihtop (by simpa using h)

/-- Settles O48: the balance from a cleared divider is the division with remainder of `u` by `UI_DIV`. -/
theorem holdCountIsTheQuotientOfTheUpdates : Obligations.HoldCountIsTheQuotientOfTheUpdates := by
  intro s samples hl hcount hdiv u d
  obtain ⟨t, new, ht, hnew, hbutton, hbits⟩ := runCommands_sampleCommands samples hl
  refine ⟨t, new, ht, hnew, fun hquiet => ?_⟩
  have hd : 0 < d := Config.legal_divisor hl
  have hrange : s.button.InRange d := by simpa [Button.InRange, hdiv] using hd
  obtain ⟨hbalance, hlt, htick, htop⟩ := sampled_hold_balance s.cfg.UI_DIV.isLt hrange
    (forall_mem_of_map_eq (hbits 3 (by decide)) (P := (· = false)) fun r hr => (hquiet r hr).1)
    (forall_mem_of_map_eq (hbits 4 (by decide)) (P := (· = false)) fun r hr => (hquiet r hr).2)
  have hticks := countP_eq_of_map_eq (hbits 5 (by decide))
  have htops := countP_eq_of_map_eq (hbits 6 (by decide))
  simp only [hdiv, hcount, List.length_map, ← hbutton, ← hticks, ← htops] at hbalance hlt htick htop
  obtain ⟨hquotient, hremainder⟩ := (Nat.div_mod_unique hd).2 ⟨hbalance.symm.trans (Nat.zero_add u), hlt⟩
  have hmax := t.button.holdCount.isLt
  rw [BitVec.toNat_ofNat] at htick
  rw [hquotient, hremainder]
  refine ⟨?_, rfl, ?_, ?_⟩ <;> omega

end Sys2Proof.Machine

/-! ### The debounce law, R178

From an all-0 history, bit `i` of the history is the raw bit of `i` samples ago. -/

namespace Sys2Proof.Machine

theorem shiftedHistory_getLsbD_zero (h : Byte) (b : Bool) : (shiftedHistory h b).getLsbD 0 = b := by
  cases b <;> simp [shiftedHistory]

theorem shiftedHistory_getLsbD_succ (h : Byte) (b : Bool) {i : Nat} (hi : i + 1 < 8) :
    (shiftedHistory h b).getLsbD (i + 1) = h.getLsbD i := by
  cases b <;> simp [shiftedHistory, hi, BitVec.getLsbD_eq_getElem (Nat.lt_of_succ_lt hi)]

section

variable {d : Nat} {x : Button} {bs : List Bool} {n : Nat}

theorem sampled_concat_btnShift (d : Nat) (x : Button) (bs : List Bool) (b : Bool) :
    (x.sampled d (bs ++ [b])).btnShift = shiftedHistory (x.sampled d bs).btnShift b := by
  rw [sampled_concat, step_btnShift]

/-! Samples with no 8 consecutive 1s. -/

/-- The lowest `k` bits of the history are 1 only after `k` samples of 1. -/
theorem replicate_suffix_of_history (hx : x.btnShift = 0x00#8) {k : Nat} (hk : k ≤ 8)
    (h : ∀ i < k, (x.sampled d bs).btnShift.getLsbD i = true) : List.replicate k true <:+ bs := by
  induction k generalizing bs with
  | zero => exact List.nil_suffix
  | succ k ih =>
    obtain rfl | ⟨bs, b, rfl⟩ := bs.eq_nil_or_concat
    · have h0 := h 0 k.succ_pos
      simp [Button.sampled, hx] at h0
    · rw [List.concat_eq_append, sampled_concat_btnShift] at h
      have hb := h 0 k.succ_pos
      rw [shiftedHistory_getLsbD_zero] at hb
      have hbs (i : Nat) (hi : i < k) : (x.sampled d bs).btnShift.getLsbD i = true := by
        rw [← shiftedHistory_getLsbD_succ _ b (by omega)]
        exact h (i + 1) (Nat.succ_lt_succ hi)
      rw [List.concat_eq_append, List.replicate_succ', hb, List.suffix_append_inj_of_length_eq rfl]
      exact ⟨ih (Nat.le_of_succ_le hk) hbs, rfl⟩

theorem allOnes_getLsbD : ∀ i < 8, (0xFF#8).getLsbD i = true := by decide

/-- A released button stays released, and no PRESS or RELEASE is reported. -/
theorem sampled_released (hst : x.btnState = .released) (hx : x.btnShift = 0x00#8)
    (h : ¬ List.replicate 8 true <:+: bs) :
    (x.sampled d bs).btnState = .released ∧ ∀ e ∈ x.events d bs, e.getLsbD 3 = false ∧ e.getLsbD 4 = false := by
  induction bs using List.reverseRecOn with
  | nil => exact ⟨hst, List.forall_mem_nil _⟩
  | append_singleton bs b ih =>
    obtain ⟨hreleased, hquiet⟩ := ih fun hin => h (hin.trans (List.prefix_append bs [b]).isInfix)
    have hsr : shiftedHistory (x.sampled d bs).btnShift b ≠ 0xFF#8 := by
      intro hsr
      rw [← sampled_concat_btnShift] at hsr
      exact h (replicate_suffix_of_history hx le_rfl (hsr ▸ allOnes_getLsbD)).isInfix
    have ht : (x.sampled d bs).btnState.transition (shiftedHistory (x.sampled d bs).btnShift b) = none := by
      rw [hreleased]
      exact if_neg hsr
    rw [sampled_concat, events_concat, step_btnState_of_no_transition ht, List.forall_mem_append,
      List.forall_mem_singleton]
    exact ⟨hreleased, hquiet, transition_eq_none_iff_no_event.1 ht⟩

/-! Steady 1s. -/

theorem ones_btnShift_getLsbD (d : Nat) (hx : x.btnShift = 0x00#8) (n : Nat) {i : Nat} (hi : i < 8) :
    (x.sampled d (List.replicate n true)).btnShift.getLsbD i = decide (i < n) := by
  induction n generalizing i with
  | zero => simp [Button.sampled, hx]
  | succ n ih =>
    rw [List.replicate_succ', sampled_concat_btnShift]
    cases i with
    | zero => simp [shiftedHistory_getLsbD_zero]
    | succ i =>
      rw [shiftedHistory_getLsbD_succ _ _ hi, ih (Nat.lt_of_succ_lt hi)]
      simp

/-- The sample after `n` ones saturates the history exactly from the 8th on. -/
theorem ones_saturated_iff (d : Nat) (hx : x.btnShift = 0x00#8) (n : Nat) :
    shiftedHistory (x.sampled d (List.replicate n true)).btnShift true = 0xFF#8 ↔ 7 ≤ n := by
  rw [← sampled_concat_btnShift, ← List.replicate_succ']
  constructor
  · intro h
    have h7 := ones_btnShift_getLsbD d hx (n + 1) (by decide : 7 < 8)
    rw [h, allOnes_getLsbD 7 (by decide)] at h7
    exact Nat.le_of_lt_succ (of_decide_eq_true h7.symm)
  · intro h
    apply BitVec.eq_of_getLsbD_eq
    intro i hi
    rw [ones_btnShift_getLsbD d hx _ hi, allOnes_getLsbD i hi, decide_eq_true_eq]
    omega

theorem ones_not_cleared (h : Byte) : shiftedHistory h true ≠ 0x00#8 := by
  intro h0
  have := shiftedHistory_getLsbD_zero h true
  rw [h0] at this
  cases this

/-- Steady 1s press the button with the 8th of them. -/
theorem ones_released_iff (d : Nat) (hst : x.btnState = .released) (hx : x.btnShift = 0x00#8) (n : Nat) :
    (x.sampled d (List.replicate n true)).btnState = .released ↔ n ≤ 7 := by
  induction n with
  | zero => exact iff_of_true hst (by decide)
  | succ n ih =>
    rw [List.replicate_succ', sampled_concat]
    obtain ⟨hy, hsr⟩ | ⟨-, hsr⟩ | ht := step_cases true (x.sampled d (List.replicate n true))
    · rw [step_of_press hy hsr]
      have := (ones_saturated_iff d hx n).1 hsr
      exact iff_of_false ButtonState.noConfusion (by omega)
    · exact absurd hsr (ones_not_cleared _)
    · rw [step_btnState_of_no_transition ht, ih]
      have hne : n ≤ 7 → ¬ 7 ≤ n := fun hn h7 =>
        (transition_eq_none_iff.1 ht).1 (ih.2 hn) ((ones_saturated_iff d hx n).2 h7)
      omega

theorem ones_events_press (d : Nat) (hst : x.btnState = .released) (hx : x.btnShift = 0x00#8) (n : Nat) :
    (x.events d (List.replicate n true)).map (fun e => e.getLsbD 3) = (List.range n).map (fun j => j == 7) := by
  induction n with
  | zero => rfl
  | succ n ih =>
    rw [List.replicate_succ', events_concat, List.map_append, ih, List.range_succ, List.map_append]
    refine congrArg (_ ++ [·]) (Bool.eq_iff_iff.2 ?_)
    rw [step_press_iff, ones_released_iff d hst hx, ones_saturated_iff d hx, beq_iff_eq]
    omega

/-! Alternating samples. -/

/-- `n` samples that alternate, starting with a 1. -/
def alternating (n : Nat) : List Bool := (List.range n).map fun j => j % 2 == 0

theorem alternating_succ (n : Nat) : alternating (n + 1) = alternating n ++ [n % 2 == 0] := by
  rw [alternating, List.range_succ, List.map_append]
  rfl

theorem not_saturated_of_mixed {h : Byte} (hmixed : h.getLsbD 0 ≠ h.getLsbD 1) : h ≠ 0x00#8 ∧ h ≠ 0xFF#8 := by
  constructor
  · rintro rfl
    exact hmixed rfl
  · rintro rfl
    exact hmixed rfl

/-- The newest bit of the history is the last sample, and 0 if there was none. -/
theorem alternating_newest (d : Nat) (hx : x.btnShift = 0x00#8) (n : Nat) :
    (x.sampled d (alternating n)).btnShift.getLsbD 0 = (n % 2 == 1) := by
  cases n with
  | zero => exact congrArg (BitVec.getLsbD · 0) hx
  | succ n =>
    rw [alternating_succ, sampled_concat_btnShift, shiftedHistory_getLsbD_zero, Bool.eq_iff_iff, beq_iff_eq, beq_iff_eq]
    omega

theorem alternating_events_unvalidated (d : Nat) (hx : x.btnShift = 0x00#8) (n : Nat) :
    ∀ e ∈ x.events d (alternating n), e.getLsbD 2 = true := by
  induction n with
  | zero => exact List.forall_mem_nil _
  | succ n ih =>
    rw [alternating_succ, events_concat, List.forall_mem_append, List.forall_mem_singleton, step_unvalidated_iff]
    refine ⟨ih, not_saturated_of_mixed ?_⟩
    rw [shiftedHistory_getLsbD_zero, shiftedHistory_getLsbD_succ _ _ (by decide), alternating_newest d hx, Ne,
      Bool.eq_iff_iff, beq_iff_eq, beq_iff_eq]
    omega

end

/-- 8 consecutive 1s among the raw bits are a window of 8 samples with no 0. -/
theorem no_ones_of_windows {samples : List (Bool × BitVec 2)}
    (h : ∀ w, w <:+: samples → w.length = 8 → ∃ x ∈ w, x.1 = false) :
    ¬ List.replicate 8 true <:+: samples.map Prod.fst := by
  intro hin
  obtain ⟨w, hw, heq⟩ := List.infix_map_iff.1 hin
  have hlength : w.length = 8 := by simpa using congrArg List.length heq.symm
  obtain ⟨x, hx, hfalse⟩ := h w hw hlength
  have hmem : x.1 ∈ List.replicate 8 true := heq ▸ List.mem_map_of_mem hx
  rw [hfalse] at hmem
  exact Bool.false_ne_true (List.eq_of_mem_replicate hmem)

/-- Settles O49: bits 2 to 4 of the results are the button's events, which follow from the history of each sample. -/
theorem debounceNeedsEightEqualSamples : Obligations.DebounceNeedsEightEqualSamples := by
  intro s samples hl hst hshift
  obtain ⟨t, new, ht, hnew, -, hbits⟩ := runCommands_sampleCommands samples hl
  have hlength : new.length = samples.length := by
    simpa [events_length] using congrArg List.length (hbits 2 le_rfl)
  refine ⟨t, new, ht, hnew, hlength, fun hwindows => ?_, fun hones => ?_, fun halternate => ?_⟩
  · obtain ⟨-, hquiet⟩ := sampled_released (d := s.cfg.UI_DIV.toNat) hst hshift (no_ones_of_windows hwindows)
    have h3 := forall_mem_of_map_eq (hbits 3 (by decide)).symm (P := (· = false)) fun e he => (hquiet e he).1
    have h4 := forall_mem_of_map_eq (hbits 4 (by decide)).symm (P := (· = false)) fun e he => (hquiet e he).2
    exact fun r hr => ⟨h3 r hr, h4 r hr⟩
  · have hraw : samples.map Prod.fst = List.replicate samples.length true :=
      List.eq_replicate_iff.2 ⟨List.length_map _, List.forall_mem_map.2 hones⟩
    rw [hbits 3 (by decide), hraw]
    exact ones_events_press _ hst hshift _
  · replace halternate : samples.map Prod.fst = alternating samples.length := halternate
    rw [halternate] at hbits
    exact forall_mem_of_map_eq (hbits 2 le_rfl).symm (P := (· = true)) (alternating_events_unvalidated _ hshift _)

end Sys2Proof.Machine

/-! ## The statements of the exceptions, R210 to R213 and R225 -/

namespace Sys2Proof.Machine

variable {s : State} {i : Instr}

/-- Settles O10: in both cases the issuer is not the owner of the command. -/
theorem commandOfTheOtherAgentIsRefused : Obligations.CommandOfTheOtherAgentIsRefused := by
  intro s i h
  obtain ⟨hs, rfl | rfl⟩ | ⟨hs, hrecord, hreload⟩ := h
  · exact wrongAgentRefused Agent.noConfusion s hs
  · exact wrongAgentRefused Agent.noConfusion s hs
  · have howner : Agent.tick ≠ i.owner := by
      rw [owner_eq_consumer hrecord hreload]
      exact Agent.noConfusion
    exact wrongAgentRefused howner s hs

theorem refusedWith_of_exec {r : RefusalReason} (h : exec i s = .next (s.refuse r)) : RefusedWith r s (exec i s) := by
  rw [h]
  exact refusedWith_refuse r s

/-- Settles O11: the codes are the table of R211, and each operand is refused by its command's own check. -/
theorem operandRefusalsAndTheirCodes : Obligations.OperandRefusalsAndTheirCodes := by
  refine ⟨rfl, fun s hs => ⟨?_, ?_, fun ha => ⟨?_, ?_⟩, fun i hi => ?_⟩⟩
  · exact refusedWith_of_exec (exec_setTrim_reserved hs)
  · exact refusedWith_of_exec (exec_startInterval_zero hs)
  · exact refusedWith_of_exec (exec_intervalElapsed_unarmed ha hs)
  · exact refusedWith_of_exec (exec_consumeInterval_unarmed ha hs)
  · exact refusedWith_of_exec (exec_readReg_reserved hi hs)

/-- Settles O8: the idle branch of a step. -/
theorem blockHoldsItsStateBetweenCommands : Obligations.BlockHoldsItsStateBetweenCommands := by
  intro s hl hi
  exact step_of_idle hl hi

end Sys2Proof.Machine

/-! ## Reading, then RETIRE_ALL: the loss of R252 -/

namespace Sys2Proof.Machine

/-- PENDING_TICKS, `j` ticks, RETIRE_ALL and CLOCK_ADVANCE `n` (R252). -/
def readThenRetireAll (j : Nat) (n : Half) : List Command :=
  [Instr.pendingTicks.issued] ++ List.replicate j Instr.recordTick.issued ++
    [Instr.retireAll.issued, (Instr.clockAdvance n).issued]

/-- RETIRE_ALL retires the ticks before it with the rest; the clock sees only the operand of CLOCK_ADVANCE. -/
theorem foldl_readThenRetireAll (j : Nat) (n : Half) (s : State) :
    (readThenRetireAll j n).foldl State.after s =
      { s with
        acc := ⟨((Accumulator.counted s.cfg.W)^[j] s.acc).eventCount,
          ((Accumulator.counted s.cfg.W)^[j] s.acc).eventCount⟩
        clock := s.clock.advance n.toNat
        issuer := .consumer
        results := s.results ++ [⟨.consumer, BitVec.ofNat 32 (s.acc.pending s.cfg.W)⟩] ++
          List.replicate j ⟨.tick, 0#32⟩ ++ [⟨.consumer, 0#32⟩] ++ [⟨.consumer, 0#32⟩] } := by
  simp only [readThenRetireAll, List.foldl_append, List.foldl_cons, List.foldl_nil]
  rw [after_issued (i := .pendingTicks) rfl, foldl_recordTick, after_issued (i := .retireAll) rfl,
    after_issued (i := .clockAdvance n) rfl]
  rfl

/-- Settles O44: RETIRE_ALL makes the counters equal after the late ticks, and the clock is advanced by the count read
before them, as CLOCK_UPDATE advances it. -/
theorem retireAllAfterAReadLosesTheLateTicks : Obligations.RetireAllAfterAReadLosesTheLateTicks := by
  intro s j h p
  obtain ⟨hcfg, ⟨hevents, -⟩, -⟩ := h
  have hW := Config.legal_width hcfg
  have hp : p < 2 ^ 16 := (pending_lt s.cfg.W s.acc).trans_le (pow_width_le hW)
  have hn : (BitVec.ofNat 16 p).toNat = p := (BitVec.toNat_ofNat p 16).trans (Nat.mod_eq_of_lt hp)
  have hloss := runCommands_eq_foldl (readThenRetireAll j (BitVec.ofNat 16 p)) hcfg
  have hupdate := runCommands_eq_foldl [Instr.clockUpdate.issued] hcfg
  rw [foldl_readThenRetireAll, hn] at hloss
  rw [List.foldl_cons, after_issued (i := .clockUpdate) rfl] at hupdate
  rw [clockAdvance_issued hp]
  exact ⟨_, _, hloss, hupdate, rfl, counted_iterate_eventCount hW hevents j, pending_of_counters_eq rfl _⟩

end Sys2Proof.Machine

/-! ## Reset, R240, R242 and R257 -/

namespace Sys2Proof.Machine

variable {c : Config}

theorem resetWith_deadline_of_zero (h : c.INIT_INTERVAL = 0#16) :
    (State.resetWith c).alarm.nextIntervalDeadline = 0#16 := if_pos h

/-- The reset arms the initial interval from the initial time, as START_INTERVAL would (R150). -/
theorem resetWith_alarm_of_interval (h : c.INIT_INTERVAL ≠ 0#16) :
    (State.resetWith c).alarm = Alarm.armed c.R.toNat c.INIT_MS c.INIT_INTERVAL :=
  congrArg (Alarm.mk c.INIT_INTERVAL) (if_neg h)

/-- The deadline after a reset is in range, armed or not. -/
theorem resetWith_alarm_inRange (hR : 0 < c.R.toNat) : (State.resetWith c).alarm.InRange c.R.toNat := by
  by_cases h : c.INIT_INTERVAL = 0#16
  · rw [Alarm.InRange, resetWith_deadline_of_zero h]
    exact hR
  · rw [resetWith_alarm_of_interval h]
    exact armed_inRange _ hR _ _

/-- A reset with a legal configuration meets the invariant: the elements not taken from the configuration are 0. -/
theorem resetWith_inv (h : c.legal = true) : (State.resetWith c).Inv := by
  have hzero : (0 : Nat) < 2 ^ c.W := pow_width_pos c.W
  exact ⟨h, ⟨hzero, hzero⟩, ⟨fun _ => ⟨rfl, rfl, rfl⟩, absurd rfl⟩, Config.legal_start h,
    resetWith_alarm_inRange (Config.legal_bound h), Config.legal_divisor h⟩

/-- Settles O16: `State.reset` is the reset with the legal configuration of entry 3. -/
theorem resetMeetsTheElementRanges : Obligations.ResetMeetsTheElementRanges :=
  ⟨fun _ => resetWith_inv, resetWith_inv (by decide)⟩

/-- Settles O17: all but the deadline is read off the reset; the deadline is a residue modulo `R`, or 0. -/
theorem resetStateIsAsListed : Obligations.ResetStateIsAsListed := by
  intro c s
  have harmed (h : c.INIT_INTERVAL ≠ 0#16) (hR : 1 ≤ c.R.toNat) :
      s.alarm.nextIntervalDeadline.toNat = (c.INIT_MS.toNat + c.INIT_INTERVAL.toNat) % c.R.toNat := by
    rw [resetWith_alarm_of_interval h, armed_deadline_toNat c.R hR]
  exact ⟨rfl, rfl, rfl, rfl, rfl, rfl, rfl, rfl, rfl, rfl, harmed, resetWith_deadline_of_zero, rfl, rfl, rfl, rfl, rfl,
    rfl, rfl, rfl, rfl⟩

/-- One sample does not fill a cleared history. -/
theorem shiftedHistory_cleared_ne_ones : ∀ b : Bool, shiftedHistory 0x00#8 b ≠ 0xFF#8 := by decide

/-- The decode of the first sample, against 0b00 (R257). -/
theorem delta_of_firstWindow : ∀ q : BitVec 2,
    (rotationOf (shiftedWindow 0x0#4 q)).delta = if q = 0b01#2 then 1 else if q = 0b10#2 then -1 else 0 := by decide

/-- A count at 0 is at neither end, so the mode does not matter (R182). -/
theorem rotated_from_zero_toInt (m : RotMode) : ∀ d ∈ [0, 1, -1], (rotated m 0#8 d).toInt = d := by
  cases m with
  | wrap => decide
  | saturate => decide

/-- Pressing takes eight samples, so the first one leaves the button as it was (R242). -/
theorem resetWith_step_btnState (d : Nat) (b : Bool) :
    ((State.resetWith c).button.step d b).1.btnState = .released :=
  step_btnState_of_no_transition
    (transition_eq_none_iff.2 ⟨fun _ => shiftedHistory_cleared_ne_ones b, ButtonState.noConfusion⟩)

/-- The first sample's decode is the count itself (R257). -/
theorem resetWith_step_rotationCount (m : RotMode) (q : BitVec 2) :
    ((State.resetWith c).quad.step m q).1.rotationCount.toInt =
      if q = 0b01#2 then 1 else if q = 0b10#2 then -1 else 0 := by
  have hmem : (if q = 0b01#2 then 1 else if q = 0b10#2 then -1 else 0 : Int) ∈ [0, 1, -1] := by
    split_ifs <;> decide
  rw [← delta_of_firstWindow q] at hmem ⊢
  exact rotated_from_zero_toInt m _ hmem

/-- Settles O52: trimming is off, the counters are equal, and the first sample meets a cleared history and window. -/
theorem firstCommandsAfterReset : Obligations.FirstCommandsAfterReset := by
  intro c hl
  obtain ⟨t, ht, hresults⟩ := runCommands_pendingTicks (s := State.resetWith c) [] hl
  rw [List.foldl_nil, pending_of_counters_eq rfl] at hresults
  refine ⟨⟨_, runCommands_eq_foldl [Instr.nextReload.issued] hl, ?_⟩, ⟨t, ht, hresults⟩,
    fun b q => ⟨_, runCommands_eq_foldl [(Instr.qdUpdate b q).issued] hl, ?_⟩⟩
  · have hbase : BitVec.ofInt 32 ((State.resetWith c).trim.reload c.BASE) = c.BASE.setWidth 32 := by
      rw [Trim.reload_of_off rfl, BitVec.ofInt_natCast, BitVec.ofNat_toNat]
    rw [← hbase]
    exact (after_nextReload (State.resetWith c)).2
  · rw [List.foldl_cons, after_qdUpdate]
    exact ⟨resetWith_step_btnState _ b, resetWith_step_rotationCount _ q⟩

end Sys2Proof.Machine
